-- ==== Sys2Proof/Word.lean ====
section
/-! DEFINITION. The byte and word types of the block (00_scope.md R14). -/

namespace Sys2Proof

/-- A byte: 8 bits, unsigned, bit 7 most significant (00_scope.md R14). -/
abbrev Byte := BitVec 8

/-- A 16-bit unsigned value, the width of LEN, PLEN and RLEN (00_scope.md R14). -/
abbrev Word16 := BitVec 16

/-- An 11-bit length register, 0 to 1024 in use (10_state.md R25, R26, R28). -/
abbrev Len11 := BitVec 11

end Sys2Proof
end

