-- ==== Sys2Proof/Config.lean ====
section
/-! DEFINITION. What the spec leaves to an implementation: the size parameter, the free values and the text tables.
An `opaque` constant here has no body: nothing can be proved of its value. -/

namespace Sys2Proof.Config

/-- `MAX_FRAME` (00_scope.md R9, 92_eei_decisions.md D34): the size of each buffer and the bound on every frame. -/
def maxFrame : Nat := 1024

/-- `MAX_PAYLOAD = MAX_FRAME - 9` (00_scope.md R9). -/
def maxPayload : Nat := maxFrame - 9

/-- `MAX_LEN_FIELD = MAX_FRAME - 6` (00_scope.md R9). -/
def maxLenField : Nat := maxFrame - 6

/-- Which of the two frame buffers a free byte belongs to. -/
inductive Space where
  | tx
  | rx
  deriving DecidableEq, Repr

/-- FREE VALUE (10_state.md R40; 93_implementation_defined.md U5; log entry 6): the byte of a buffer at an index
whose contents the spec leaves unspecified, by buffer, by the epoch since which it is unspecified, by index. -/
opaque unspecifiedByte : Space → Nat → Nat → Byte

/-- FREE VALUE (10_state.md R22; log entry 7): the payload byte at an index below PLEN for which the host presented
no byte, by the count of host writes of PLEN and P, by index. -/
opaque unpresentedByte : Nat → Nat → Byte

/-- FREE VALUE (10_state.md R28, R39; 93_implementation_defined.md U4, U7; log entry 8): what the n-th host read
without a defined value returns. -/
opaque undefinedRead : Nat → BitVec 16

/-- The entries of ERRMSG that the source does not give (00_scope.md R11, D35; log entry 12): a partial map, `none` for
a code absent from the table. -/
opaque otherMessage : Byte → Byte → Option String

/-- The entries of STNAME0 that the source does not give (00_scope.md R11, D35; log entry 12). -/
opaque otherName0 : Byte → Option String

/-- The entries of STNAME1 that the source does not give (00_scope.md R11, D35; log entry 12). -/
opaque otherName1 : Byte → Option String

/-- The entries of STNAME2 that the source does not give (00_scope.md R11, D35; log entry 12). -/
opaque otherName2 : Byte → Option String

/-- The thirteen named operations of the session facade (43_session.md R192, 30_encoding.md R98). -/
inductive SessionOp where
  | initialise
  | statusRequest
  | cardMove
  | cardEntryGateControl
  | cardTypeCheck
  | cpuSamCardControl
  | sle4442Control
  | memoryCardControl
  | rfCardControl
  | serialNumberRead
  | configurationRead
  | firmwareVersionRead
  | recycleBinCounter
  deriving DecidableEq, Repr

/-- The command byte each named operation fixes: a parameter, since the source gives none (43_session.md R192;
93_implementation_defined.md U13; log entry 12). -/
opaque commandByte : SessionOp → Byte

end Sys2Proof.Config
end

