-- ==== Sys2Proof/Machine/State.lean ====
section
/-! DEFINITION. The machine's state as plain data, its reset value, and the reasons a step can stop. -/

namespace Sys2Proof.Machine

/-- Faults. -/
inductive Fault where
  /-- Raised by a host write of RXBUF on an idle block at an index of 1024 or above, an address that does not exist
  (20_memory.md R60, R67; log entry 13). SAFE: the model stops where the spec gives no access and no effect. -/
  | noSuchIndex (i : Nat)
  deriving DecidableEq, Repr

/-- Refusals. -/
inductive Refusal where
  /-- Raised by an arm of `exec` whose instruction has no meaning yet; no arm of this model does. SAFE: the model
  stops where the hardware goes on. -/
  | notModelled (mnemonic : String)
  deriving DecidableEq, Repr

/-- The ten values of XSTATE (10_state.md R23); the codes are in Machine/Codes.lean. -/
inductive XState where
  | idle
  | sent
  | awaitingAck
  | ackReceived
  | awaitingReply
  | replyReceived
  | done
  | failNoAck
  | failTransport
  | failDecode
  deriving DecidableEq, Repr

/-- The values of ERR: `None` and the seven typed failures (10_state.md R32, 60_exceptions.md R200). -/
inductive Err where
  | none_
  | transportError
  | noAck
  | checksumMismatch
  | unknownResponseType
  | truncatedFrame
  | deviceError
  | frameTooLarge
  deriving DecidableEq, Repr

/-- The values of RKIND (10_state.md R28). -/
inductive RKind where
  | none_
  | positive
  | negative
  deriving DecidableEq, Repr

/-- The transport call the running operation is blocked in (00_scope.md R19, 42_exchange.md R151, R152). -/
inductive Call where
  /-- No operation is running. -/
  | none_
  /-- The TWrite of the request frame (R158). -/
  | writeRequest
  /-- A TRead of the first accumulation (R159). -/
  | readAck
  /-- A TRead of the second accumulation (R162). -/
  | readReply
  /-- The TWrite of the ACK byte (R168). -/
  | writeAck
  deriving DecidableEq, Repr

/-- The operation a blocked call belongs to (10_state.md R39, 43_session.md R190). -/
inductive Op where
  | none_
  | xchg
  | transact
  deriving DecidableEq, Repr

/-- An answer of the transport to TWrite (42_exchange.md R151). -/
inductive WAnswer where
  /-- `Ok(j)`: it accepted `j` bytes. -/
  | ok (j : Nat)
  | err
  deriving DecidableEq, Repr

/-- An answer of the transport to TRead (42_exchange.md R152). -/
inductive RAnswer where
  | data (chunk : List Byte)
  | endOfStream
  | err
  deriving DecidableEq, Repr

/-- What another agent can observe the block do (00_scope.md R19, 20_memory.md R70). -/
inductive Obs where
  /-- XSTATE was written. -/
  | enter (x : XState)
  /-- `TWrite(B)` was called. -/
  | write (bytes : List Byte)
  /-- A TRead was answered. -/
  | read (a : RAnswer)
  /-- The block was reset (70_reset_and_hazards.md R230). -/
  | reset
  deriving DecidableEq, Repr

/-- A frame buffer: the bytes whose contents the rules fix, as (index, byte) cells in strictly rising order, and the
epoch since which every other index is unspecified (10_state.md R25, R26, R40; log entry 6). -/
structure Memory where
  cells : List Host.Cell
  epoch : Nat
  deriving DecidableEq, Repr

/-- The registers of the block by name, for a host read (10_state.md R39). -/
inductive Reg where
  | raddr | rcm | rpm | plen | xstate | txLen | rxLen | rkind | rlen | rdisc | rst0 | rst1 | rst2 | re1 | re0
  | rpoff | rplen | cfg | err | errInfo | bccErr | noAckV | bccAcc | bccIn | bccOut | bccOk | ackByte | ackV | rxOvf
  deriving DecidableEq, Repr

/-- A host write (10_state.md R39): a writable register at its own width, the payload, a byte of RXBUF, or a register
the host cannot write. -/
inductive HostWrite where
  | raddr (v : Byte)
  | rcm (v : Byte)
  | rpm (v : Byte)
  | plen (v : Word16)
  | payload (bytes : List Byte)
  | cfg (v : Byte)
  | bccIn (v : Byte)
  | rxLen (v : Len11)
  | rxBuf (i : Nat) (b : Byte)
  | readOnly (r : Reg) (v : Word16)
  | txBuf (i : Nat) (b : Byte)
  deriving DecidableEq, Repr

/-- A host read (10_state.md R39): a register, one byte of P, or one byte of a buffer. -/
inductive HostRead where
  | reg (r : Reg)
  | payload (i : Nat)
  | txBuf (i : Nat)
  | rxBuf (i : Nat)
  deriving DecidableEq, Repr

/-- What happens next outside the block (log entry 2). -/
inductive Event where
  /-- The host writes a code to OPSEL (30_encoding.md R92). -/
  | opsel (code : BitVec 3)
  | write (w : HostWrite)
  | read (r : HostRead)
  /-- Reset (70_reset_and_hazards.md R230, R232). -/
  | reset
  /-- The transport's next answer to TWrite becomes available. -/
  | wAnswer (a : WAnswer)
  /-- The transport's next answer to TRead becomes available. -/
  | rAnswer (a : RAnswer)
  deriving DecidableEq, Repr

/-- The whole state: the registers and buffers of 10_state.md, the working state its text implies, the inputs, and the
model's own fields (INVENTORY.md, State). -/
structure State where
  /-- RADDR (R20, R21). -/
  raddr : Byte
  /-- RCM (R20). -/
  rcm : Byte
  /-- RPM (R20). -/
  rpm : Byte
  /-- PLEN (R20, R22). -/
  plen : Word16
  /-- P, the bytes the host presents (R20, R22). -/
  p : List Byte
  /-- XSTATE (R23). -/
  xstate : XState
  /-- TXBUF (R25). -/
  txBuf : Memory
  /-- TXLEN (R25). -/
  txLen : Len11
  /-- RXBUF (R26). -/
  rxBuf : Memory
  /-- RXLEN (R26). -/
  rxLen : Len11
  /-- RKIND (R28). -/
  rkind : RKind
  /-- RLEN (R28). -/
  rlen : Word16
  /-- RDISC (R28). -/
  rdisc : Byte
  /-- RST0 (R28). -/
  rst0 : Byte
  /-- RST1 (R28). -/
  rst1 : Byte
  /-- RST2 (R28). -/
  rst2 : Byte
  /-- RE1 (R28). -/
  re1 : Byte
  /-- RE0 (R28). -/
  re0 : Byte
  /-- RPOFF (R28). -/
  rpoff : Len11
  /-- RPLEN (R28). -/
  rplen : Len11
  /-- CFG (R29, R30). -/
  cfg : Byte
  /-- ERR (R32). -/
  err : Err
  /-- ERRINFO (R33). -/
  errInfo : Byte
  /-- BCCERR (R31). -/
  bccErr : Bool
  /-- NOACKV (R34). -/
  noAckV : Bool
  /-- BCCACC (R35), hidden. -/
  bccAcc : Byte
  /-- BCCIN (R35). -/
  bccIn : Byte
  /-- BCCOUT (R35). -/
  bccOut : Byte
  /-- BCCOK (R35). -/
  bccOk : Bool
  /-- ACKBYTE (R36), hidden. -/
  ackByte : Byte
  /-- ACKV (R36), hidden. -/
  ackV : Bool
  /-- RXOVF (R36), hidden. -/
  rxOvf : Bool
  /-- The working bit `strict` (42_exchange.md R157), hidden. -/
  strict : Bool
  /-- The next free index of RXBUF during an accumulation (42_exchange.md R154), hidden. -/
  rxFill : Len11
  /-- The transport call in progress (log entry 1), hidden. -/
  call : Call
  /-- The operation in progress (log entry 1), hidden. -/
  op : Op
  /-- Input: what the host does next, and late answers of the transport (log entry 2). -/
  inbox : List Event
  /-- Input: the transport's answers to TWrite that stand ready (log entry 2). -/
  wAns : List WAnswer
  /-- Input: the transport's answers to TRead that stand ready (log entry 2). -/
  rAns : List RAnswer
  /-- Model's own: selects the free bytes of a payload shorter than PLEN (log entry 7). -/
  pEpoch : Nat
  /-- Model's own: selects the free value of a read without a defined value (log entry 8). -/
  freeCtr : Nat
  /-- Model's own: what the host's latest read returned (log entry 8). -/
  hostData : Word16
  /-- Model's own: what was observable, newest first (log entry 9). -/
  trace : List Obs
  deriving DecidableEq, Repr

/-- The machine right after reset (10_state.md R40, 70_reset_and_hazards.md R230); fields outside that table as log
entries 1, 2, 6, 7, 8 and 9 say. -/
def State.reset : State where
  raddr := 0x00#8
  rcm := 0x00#8
  rpm := 0x00#8
  plen := 0#16
  p := []
  xstate := .idle
  txBuf := { cells := [], epoch := 0 }
  txLen := 0#11
  rxBuf := { cells := [], epoch := 0 }
  rxLen := 0#11
  rkind := .none_
  rlen := 0#16
  rdisc := 0x00#8
  rst0 := 0x00#8
  rst1 := 0x00#8
  rst2 := 0x00#8
  re1 := 0x00#8
  re0 := 0x00#8
  rpoff := 0#11
  rplen := 0#11
  cfg := 0x01#8
  err := .none_
  errInfo := 0x00#8
  bccErr := false
  noAckV := false
  bccAcc := 0x00#8
  bccIn := 0x00#8
  bccOut := 0x00#8
  bccOk := false
  ackByte := 0x00#8
  ackV := false
  rxOvf := false
  strict := false
  rxFill := 0#11
  call := .none_
  op := .none_
  inbox := []
  wAns := []
  rAns := []
  pEpoch := 0
  freeCtr := 0
  hostData := 0#16
  trace := []

end Sys2Proof.Machine
end

