-- ==== Sys2Proof/Machine/Codes.lean ====
section
/-! DEFINITION. The numeric codes of XSTATE, ERR and RKIND as the host reads them (10_state.md R23, R28, R32). -/

namespace Sys2Proof.Machine

/-- The 4-bit code of XSTATE (10_state.md R23). -/
def XState.code : XState → BitVec 4
  | .idle => 0#4
  | .sent => 1#4
  | .awaitingAck => 2#4
  | .ackReceived => 3#4
  | .awaitingReply => 4#4
  | .replyReceived => 5#4
  | .done => 6#4
  | .failNoAck => 8#4
  | .failTransport => 9#4
  | .failDecode => 10#4

/-- The 4-bit code of ERR (10_state.md R32). -/
def Err.code : Err → BitVec 4
  | .none_ => 0#4
  | .transportError => 1#4
  | .noAck => 2#4
  | .checksumMismatch => 3#4
  | .unknownResponseType => 4#4
  | .truncatedFrame => 5#4
  | .deviceError => 6#4
  | .frameTooLarge => 7#4

/-- The 2-bit code of RKIND (10_state.md R28). -/
def RKind.code : RKind → BitVec 2
  | .none_ => 0#2
  | .positive => 1#2
  | .negative => 2#2

end Sys2Proof.Machine
end

