-- ==== Sys2Proof/Machine/Wire.lean ====
section
/-! DEFINITION. The wire constants (00_scope.md R10, 30_encoding.md R89), the big-endian pair (R14, 20_memory.md R62)
and the exclusive-or of a byte sequence (40_checksum.md R110). -/

namespace Sys2Proof.Machine

/-- Start marker (30_encoding.md R89). -/
def STX : Byte := 0xF2#8
/-- End marker (R89). -/
def ETX : Byte := 0x03#8
/-- Command marker: index 4 of a request (R89). -/
def CMT : Byte := 0x43#8
/-- Positive marker: index 4 of a positive reply (R89). -/
def PMT : Byte := 0x50#8
/-- Negative marker: index 4 of a negative reply (R89). -/
def EMT : Byte := 0x45#8
/-- Alternate negative marker (R89, R86). -/
def EMT_ALT : Byte := 0x4E#8
/-- Acknowledge token (R88, R89). -/
def ACK : Byte := 0x06#8
/-- Companion negative token, never sent (R88, R89). -/
def NAK : Byte := 0x15#8
/-- Defined constant with no use (R88, R89). -/
def EOT : Byte := 0x04#8

/-- `BE16(h, l)` (00_scope.md R14): high byte first (20_memory.md R62). -/
def be16 (h l : Byte) : Word16 := BitVec.ofNat 16 (256 * h.toNat + l.toNat)

/-- `HI(v)`, bits 15:8 (00_scope.md R14). -/
def hi (v : Word16) : Byte := v.extractLsb' 8 8

/-- `LO(v)`, bits 7:0 (00_scope.md R14). -/
def lo (v : Word16) : Byte := v.extractLsb' 0 8

/-- The running exclusive-or from an accumulator value, in index order (40_checksum.md R110). -/
def xorFrom (acc : Byte) : List Byte → Byte
  | [] => acc
  | b :: bs => xorFrom (acc ^^^ b) bs

/-- `compute(bytes)` (40_checksum.md R110): BCCACC starts at 0x00. -/
def bcc (bs : List Byte) : Byte := xorFrom 0x00#8 bs

/-- `B[i]` of a byte sequence (00_scope.md R14); every use checks `i < len(B)` first (20_memory.md R67). -/
def byteAt (bs : List Byte) (i : Nat) : Byte := bs.getD i 0x00#8

end Sys2Proof.Machine
end

