-- ==== Sys2Proof/Machine/Ops.lean ====
section
/-! DEFINITION. The named operations the meanings share: buffer access, writing XSTATE, taking a failure and leaving
one behind, the transport calls. -/

namespace Sys2Proof.Machine

/-! ### The two frame buffers (10_state.md R25, R26, 20_memory.md R60) -/

/-- The listed byte at an index, if any. -/
def findCell : List Host.Cell → Nat → Option Byte
  | [], _ => none
  | (a, b) :: cs, i => if a = i then some b else findCell cs i

/-- List a byte at an index, keeping the cells in strictly rising order. -/
def putCell : List Host.Cell → Nat → Byte → List Host.Cell
  | [], i, v => [(i, v)]
  | (a, b) :: cs, i, v =>
    if i < a then (i, v) :: (a, b) :: cs
    else if i = a then (i, v) :: cs
    else (a, b) :: putCell cs i v

/-- The cells of a byte sequence stored from an index on. -/
def cellsFrom : Nat → List Byte → List Host.Cell
  | _, [] => []
  | i, b :: bs => (i, b) :: cellsFrom (i + 1) bs

/-- `MemRead(buf, i, 1)` (00_scope.md R15): an index that is not listed is unspecified and reads as a free value
(10_state.md R40; 93_implementation_defined.md U5; log entry 6). -/
def Memory.get (sp : Config.Space) (m : Memory) (i : Nat) : Byte :=
  (findCell m.cells i).getD (Config.unspecifiedByte sp m.epoch i)

/-- `MemRead(buf, 0, n)` (00_scope.md R15). -/
def Memory.take (sp : Config.Space) (m : Memory) (n : Nat) : List Byte :=
  (List.range n).map (Memory.get sp m)

/-- `MemWrite(buf, i, 1, v)` (00_scope.md R15). -/
def Memory.put (m : Memory) (i : Nat) (v : Byte) : Memory :=
  { m with cells := putCell m.cells i v }

/-- The whole contents become unspecified (10_state.md R40, 42_exchange.md R163; log entry 6). -/
def Memory.forget (m : Memory) : Memory :=
  { cells := [], epoch := m.epoch + 1 }

/-- The buffer holds exactly these bytes from index 0; every other index is unspecified (41_frame_codec.md R124). -/
def Memory.holding (m : Memory) (bs : List Byte) : Memory :=
  { cells := cellsFrom 0 bs, epoch := m.epoch + 1 }

/-- Cells strictly rise from a lower bound and stay below `MAX_FRAME`. -/
def cellsRise : Nat → List Host.Cell → Bool
  | _, [] => true
  | least, (a, _) :: cs => least ≤ a && a < Config.maxFrame && cellsRise (a + 1) cs

/-- The canonical form of a buffer: indices strictly rising, all of them below 1024 (20_memory.md R60, R67). -/
def Memory.wf (m : Memory) : Bool := cellsRise 0 m.cells

/-! ### The sequencer register (10_state.md R24) -/

/-- Another agent can observe this (00_scope.md R19; log entry 9). -/
def observe (o : Obs) (s : State) : State := { s with trace := o :: s.trace }

/-- `XSTATE <- x` (00_scope.md R15), the only way XSTATE is written but for reset. -/
def setX (x : XState) (s : State) : State := observe (.enter x) { s with xstate := x }

/-- The rest states (10_state.md R24). -/
def XState.isRest : XState → Bool
  | .idle => true
  | .done => true
  | .failNoAck => true
  | .failTransport => true
  | .failDecode => true
  | .sent => false
  | .awaitingAck => false
  | .ackReceived => false
  | .awaitingReply => false
  | .replyReceived => false

/-- The block is idle: no operation is running and XSTATE rests (10_state.md R24, R39; 92_eei_decisions.md D21). -/
def State.isIdle (s : State) : Bool := s.call == .none_ && s.xstate.isRest

/-- An operation runs only on an idle block; a start on a busy one is refused and changes nothing (10_state.md R39,
92_eei_decisions.md D21; 93_implementation_defined.md U6; log entry 10). -/
def whenIdle (f : State → State) (s : State) : State := if s.isIdle then f s else s

/-! ### Failure entry and what leaves a failure behind (60_exceptions.md R210, R212) -/

/-- `raise <Failure>` (60_exceptions.md R210): ERR takes the code, ERRINFO the byte the rules name (0x00 if none);
nothing is saved, no mode changes, control goes nowhere. -/
def raise (f : Err) (info : Byte) (s : State) : State := { s with err := f, errInfo := info }

/-- What every operation that can fail writes first (10_state.md R32, 60_exceptions.md R212): the earlier failure is
left behind. This stands where a processor has a return from exception. -/
def clearFailure (s : State) : State := { s with err := .none_, errInfo := 0x00#8 }

/-- The operation has ended: no call is in progress. -/
def endOp (s : State) : State := { s with call := .none_, op := .none_ }

/-- `fail(F, S)` of 42_exchange.md R171: failure entry with the exit state of R170. -/
def failExchange (f : Err) (info : Byte) (exit : XState) (s : State) : State :=
  endOp (setX exit (raise f info s))

/-- RXBUF becomes unspecified (42_exchange.md R163, 60_exceptions.md R211). -/
def forgetReply (s : State) : State := { s with rxBuf := s.rxBuf.forget }

/-! ### The transport port (42_exchange.md R150 to R155) -/

/-- The block is blocked in a transport call (42_exchange.md R151, R152). -/
def setCall (c : Call) (s : State) : State := { s with call := c }

/-- The transport's answers to TWrite from here on. -/
def leaveW (as : List WAnswer) (s : State) : State := { s with wAns := as }

/-- The transport's answers to TRead from here on (10_state.md R37). -/
def leaveR (as : List RAnswer) (s : State) : State := { s with rAns := as }

/-- `TWrite(B)` is called: from here the block is blocked in the call until an answer stands ready (R151). -/
def callWrite (bytes : List Byte) (c : Call) (s : State) : State := setCall c (observe (.write bytes) s)

/-- A TWrite of `k` bytes succeeded: `Ok(j)` with `j = k` and nothing else (42_exchange.md R151). -/
def WAnswer.accepts (a : WAnswer) (k : Nat) : Bool := a == .ok k

/-- Storage of one accumulated byte (42_exchange.md R154): the first of an exchange to ACKBYTE, later ones to the next
free index of RXBUF, and RXOVF when RXBUF is full. -/
def storeByte (b : Byte) (s : State) : State :=
  if s.ackV = false then { s with ackByte := b, ackV := true }
  else if s.rxFill.toNat < Config.maxFrame then
    { s with rxBuf := s.rxBuf.put s.rxFill.toNat b, rxFill := s.rxFill + 1#11 }
  else { s with rxOvf := true }

/-- Storage of a chunk, in the order the device sent it (42_exchange.md R152, R154). -/
def storeChunk : List Byte → State → State
  | [], s => s
  | b :: bs, s => storeChunk bs (storeByte b s)

/-- How a run of TRead calls ended. -/
inductive AccumEnd where
  /-- No answer stands ready: the block stays blocked in TRead (42_exchange.md R155). -/
  | blocked
  /-- `EndOfStream`. -/
  | endOfStream
  /-- `Err`. -/
  | err
  deriving DecidableEq, Repr

/-- `ACCUM` (42_exchange.md R154) over the answers that stand ready; those after the one that ends it stay for the next
accumulation (10_state.md R37). -/
def accum : List RAnswer → State → AccumEnd × State
  | [], s => (.blocked, leaveR [] s)
  | .data c :: as, s => accum as (storeChunk c (observe (.read (.data c)) s))
  | .endOfStream :: as, s => (.endOfStream, observe (.read .endOfStream) (leaveR as s))
  | .err :: as, s => (.err, observe (.read .err) (leaveR as s))

end Sys2Proof.Machine
end

