-- ==== Sys2Proof/Machine/Operands.lean ====
section
/-! DEFINITION. The operands of the operations: the payload P, the request frame in TXBUF, the reply in RXBUF, and
CFG.STRICT. -/

namespace Sys2Proof.Machine

/-- The payload bytes from index `i` on: those the host presents, and free values beyond them (10_state.md R22; log
entry 7). -/
def presentedFrom (epoch : Nat) : Nat → Nat → List Byte → List Byte
  | 0, _, _ => []
  | n + 1, i, [] => Config.unpresentedByte epoch i :: presentedFrom epoch n (i + 1) []
  | n + 1, i, b :: bs => b :: presentedFrom epoch n (i + 1) bs

/-- `P`, the PLEN payload bytes (10_state.md R20, R22). -/
def payload (s : State) : List Byte := presentedFrom s.pEpoch s.plen.toNat 0 s.p

/-- `TXBUF[0 : TXLEN]`, the encoded request frame (10_state.md R25). -/
def txFrame (s : State) : List Byte := s.txBuf.take .tx s.txLen.toNat

/-- `RXBUF[0 : RXLEN]`, the reply buffer (10_state.md R26). -/
def rxReply (s : State) : List Byte := s.rxBuf.take .rx s.rxLen.toNat

/-- `CFG.STRICT`, bit 0 of CFG (10_state.md R29, R30). -/
def cfgStrict (s : State) : Bool := s.cfg.getLsbD 0

/-- What a write of CFG stores: bits 7:1 are reserved, read as 0, writes ignored (10_state.md R29). -/
def cfgWritten (v : Byte) : Byte := v &&& 0x01#8

/-- The last byte of a buffer, its BCC (30_encoding.md R87). -/
def trailingByte (bs : List Byte) : Byte := byteAt bs (bs.length - 1)

/-- The bytes of a buffer before its last one (40_checksum.md R113). -/
def bodyBytes (bs : List Byte) : List Byte := bs.take (bs.length - 1)

end Sys2Proof.Machine
end

