-- ==== Sys2Proof/Machine/Flags.lean ====
section
/-! DEFINITION. The block's flags: BCCERR and NOACKV (10_state.md R31, R34), and the verdict of a verification. There
are no condition codes (R31). -/

namespace Sys2Proof.Machine

/-- `verify(candidate, bytes)` (40_checksum.md R112). -/
def verifies (c : Byte) (bs : List Byte) : Bool := bcc bs == c

/-- The verdict on a whole buffer: its last byte against the exclusive-or of all before it (40_checksum.md R113,
42_exchange.md R165). -/
def bufferVerifies (bs : List Byte) : Bool := verifies (trailingByte bs) (bodyBytes bs)

/-- BCCERR after the reply's checksum was checked: set on a mismatch in either mode (10_state.md R31). -/
def recordChecksum (ok : Bool) (s : State) : State := { s with bccErr := s.bccErr || !ok }

/-- NOACKV: set when NoAck ends an exchange in which a byte had been accumulated (10_state.md R34). -/
def recordNoAckByte (s : State) : State := { s with noAckV := s.ackV }

/-- ERRINFO of NoAck: the first accumulated byte, 0x00 when there was none (10_state.md R33). -/
def noAckInfo (s : State) : Byte := if s.ackV then s.ackByte else 0x00#8

end Sys2Proof.Machine
end

