-- ==== Sys2Proof/Machine/Checksum.lean ====
section
/-! DEFINITION. The checksum unit (40_checksum.md) and the two OPSEL codes without an operation (30_encoding.md R92). -/

namespace Sys2Proof.Machine

/-- Host-started `BCC.COMPUTE` on `P` (40_checksum.md R110): `BCCOUT <- BCCACC`. -/
def computeBcc (s : State) : State :=
  { s with bccAcc := bcc (payload s), bccOut := bcc (payload s) }

/-- Host-started `BCC.VERIFY` of BCCIN on `P` (40_checksum.md R112): `BCCOUT <- v ; BCCOK <- (v = c)`. -/
def verifyBcc (s : State) : State :=
  { s with
    bccAcc := bcc (payload s), bccOut := bcc (payload s), bccOk := verifies s.bccIn (payload s) }

/-- `BCC.COMPUTE` (40_checksum.md R110). -/
def execBccCompute (s : State) : Host.Outcome State Fault Refusal := .next (whenIdle computeBcc s)

/-- `BCC.VERIFY` (40_checksum.md R112). -/
def execBccVerify (s : State) : Host.Outcome State Fault Refusal := .next (whenIdle verifyBcc s)

/-- OPSEL 0: none, no effect (30_encoding.md R92). -/
def execNone (s : State) : Host.Outcome State Fault Refusal := .next s

/-- OPSEL 7: reserved; the write is refused: no state changes, no failure is recorded (30_encoding.md R92;
93_implementation_defined.md U6). -/
def execReserved7 (s : State) : Host.Outcome State Fault Refusal := .next s

end Sys2Proof.Machine
end

