-- ==== Sys2Proof/Syntax.lean ====
section
/-! DEFINITION. One constructor per row of spec/opcode_table.json (30_encoding.md R99). -/

namespace Sys2Proof

/-- What the block takes as a unit: a frame handed to the decoder, a token standing first after a request, or a code
written to OPSEL (30_encoding.md R83 to R92; log entry 4). A frame carries its bytes field by field: those the mask
of the table fixes are not repeated, `body` is everything from index 5 to the end of the buffer. -/
inductive Instr where
  /-- REQ: STX and CMT are fixed by the mask; `addr` index 1, `len` indices 2 and 3, `body` CM, PM, DATA, ETX, BCC (R83). -/
  | req (addr : Byte) (len : Word16) (body : List Byte)
  /-- RSP_POS: marker 0x50; `body` two unnamed bytes, ST0, ST1, ST2, DATA and what follows (R84). -/
  | rspPos (stx addr : Byte) (len : Word16) (body : List Byte)
  /-- RSP_NEG: marker 0x45; `body` CM-echo, E1, E0, PM-echo, DATA and what follows (R85). -/
  | rspNeg (stx addr : Byte) (len : Word16) (body : List Byte)
  /-- RSP_NEG_ALT: marker 0x4E, otherwise as RSP_NEG (R85, R86). -/
  | rspNegAlt (stx addr : Byte) (len : Word16) (body : List Byte)
  /-- The token ACK (R88). -/
  | ack
  /-- The token NAK (R88). -/
  | nak
  /-- The token EOT (R88). -/
  | eot
  /-- OPSEL 0 (R92). -/
  | none_
  /-- OPSEL 1 (R92). -/
  | bccCompute
  /-- OPSEL 2 (R92). -/
  | bccVerify
  /-- OPSEL 3 (R92). -/
  | encReq
  /-- OPSEL 4 (R92). -/
  | decRsp
  /-- OPSEL 5 (R92). -/
  | xchg
  /-- OPSEL 6 (R92). -/
  | transact
  /-- OPSEL 7, reserved (R92; 93_implementation_defined.md U6). -/
  | reserved7
  deriving DecidableEq, Repr

/-- Where the block meets an encoding: the host's 3-bit command port (30_encoding.md R92), the first byte of the
acknowledge phase (R94), or a frame buffer (R80). -/
inductive Port where
  | command
  | token
  | frame
  deriving DecidableEq, Repr

/-- The port an instruction belongs to. -/
def Instr.port : Instr → Port
  | .req _ _ _ => .frame
  | .rspPos _ _ _ _ => .frame
  | .rspNeg _ _ _ _ => .frame
  | .rspNegAlt _ _ _ _ => .frame
  | .ack => .token
  | .nak => .token
  | .eot => .token
  | .none_ => .command
  | .bccCompute => .command
  | .bccVerify => .command
  | .encReq => .command
  | .decRsp => .command
  | .xchg => .command
  | .transact => .command
  | .reserved7 => .command

end Sys2Proof
end

