-- ==== Sys2Proof/WellFormed.lean ====
section
/-! DEFINITION. Which terms of `Instr` are encodings: the size bound of every frame (00_scope.md R9) and, for the
request frame, the consistency its producer guarantees (41_frame_codec.md R121, R126). -/

namespace Sys2Proof

/-- A frame with this many bytes from index 5 on fits a buffer (00_scope.md R9). -/
def fitsFrame (body : List Byte) : Bool := 5 + body.length ≤ Config.maxFrame

/-- LEN counts marker, CM, PM and payload: `LEN + 6` is the number of bytes of the frame (30_encoding.md R80, R82). -/
def lenAgrees (len : Word16) (body : List Byte) : Bool := len.toNat + 1 == body.length

/-- CM, PM, ETX and BCC are there: the shortest request has 9 bytes (30_encoding.md R90). -/
def hasTrailer (body : List Byte) : Bool := 4 ≤ body.length

/-- ETX stands before the last byte (30_encoding.md R83). -/
def endsWithEtx (body : List Byte) : Bool :=
  Machine.byteAt body (body.length - 2) == Machine.ETX

/-- The last byte is the exclusive-or of all before it: the whole frame's exclusive-or is 0 (30_encoding.md R87). -/
def requestBccHolds (addr : Byte) (len : Word16) (body : List Byte) : Bool :=
  Machine.bcc ([Machine.STX, addr, Machine.hi len, Machine.lo len, Machine.CMT] ++ body) == 0x00#8

/-- The well-formed instructions: every frame fits the buffer; a request is one that ENC.REQ can produce
(41_frame_codec.md R126); replies carry any bytes (R137). -/
def Instr.wellFormed : Instr → Bool
  | .req addr len body =>
      fitsFrame body && hasTrailer body && lenAgrees len body && endsWithEtx body && requestBccHolds addr len body
  | .rspPos _ _ _ body => fitsFrame body
  | .rspNeg _ _ _ body => fitsFrame body
  | .rspNegAlt _ _ _ body => fitsFrame body
  | .ack => true
  | .nak => true
  | .eot => true
  | .none_ => true
  | .bccCompute => true
  | .bccVerify => true
  | .encReq => true
  | .decRsp => true
  | .xchg => true
  | .transact => true
  | .reserved7 => true

end Sys2Proof
end

