-- ==== Sys2Proof/Decode.lean ====
section
/-! DEFINITION. Decoding of OPSEL codes, tokens and frames, total and rejecting by name; the encoder; the numbering of
spec/opcode_table.json. -/

namespace Sys2Proof

/-- Why bytes are no instruction. -/
inductive Reject where
  /-- A frame buffer of more than 1024 bytes (41_frame_codec.md R132). -/
  | frameTooLarge
  /-- A frame buffer of fewer than 5 bytes: no discriminator (R132). -/
  | tooShort
  /-- The byte at index 4 selects no frame kind (30_encoding.md R93). -/
  | unknownDiscriminator (d : Byte)
  /-- A single byte that is no token (30_encoding.md R88). -/
  | notAToken (b : Byte)
  /-- A value that no 3-bit code has (30_encoding.md R92). -/
  | notACode (b : Byte)
  /-- A token or a code is exactly one byte. -/
  | notOneByte
  deriving DecidableEq, Repr

/-- The OPSEL codes (30_encoding.md R92). -/
def decodeOpsel (code : BitVec 3) : Instr :=
  match code.toNat with
  | 0 => .none_
  | 1 => .bccCompute
  | 2 => .bccVerify
  | 3 => .encReq
  | 4 => .decRsp
  | 5 => .xchg
  | 6 => .transact
  | _ => .reserved7

/-- The tokens (30_encoding.md R88). -/
def decodeToken (b : Byte) : Except Reject Instr :=
  if b = Machine.ACK then .ok .ack
  else if b = Machine.NAK then .ok .nak
  else if b = Machine.EOT then .ok .eot
  else .error (.notAToken b)

/-- The opcode map of the wire (30_encoding.md R86) on the fields of a frame. -/
def selectFrame (stx addr : Byte) (len : Word16) (d : Byte) (body : List Byte) : Except Reject Instr :=
  if d = Machine.PMT then .ok (.rspPos stx addr len body)
  else if d = Machine.EMT then .ok (.rspNeg stx addr len body)
  else if d = Machine.EMT_ALT then .ok (.rspNegAlt stx addr len body)
  else if d = Machine.CMT ∧ stx = Machine.STX then .ok (.req addr len body)
  else .error (.unknownDiscriminator d)

/-- A frame buffer (30_encoding.md R86): size tests first (41_frame_codec.md R132), then the byte at index 4. -/
def decodeFrame (bytes : List Byte) : Except Reject Instr :=
  if Config.maxFrame < bytes.length then .error .frameTooLarge
  else match bytes with
    | stx :: addr :: lh :: ll :: d :: body => selectFrame stx addr (Machine.be16 lh ll) d body
    | _ => .error .tooShort

/-- The decoder: bytes as they stand at a port, first byte at the lowest index. -/
def decode (port : Port) (bytes : List Byte) : Except Reject Instr :=
  match port with
  | .frame => decodeFrame bytes
  | .token =>
    match bytes with
    | [b] => decodeToken b
    | _ => .error .notOneByte
  | .command =>
    match bytes with
    | [b] => if b.toNat < 8 then .ok (decodeOpsel (b.setWidth 3)) else .error (.notACode b)
    | _ => .error .notOneByte

/-- The bytes of a frame from its fields (30_encoding.md R80 to R85; LEN high byte first, 20_memory.md R62). -/
def frameBytes (stx addr : Byte) (len : Word16) (marker : Byte) (body : List Byte) : List Byte :=
  stx :: addr :: Machine.hi len :: Machine.lo len :: marker :: body

/-- The encoder, from the same tables (30_encoding.md R83 to R92). -/
def encode : Instr → List Byte
  | .req addr len body => frameBytes Machine.STX addr len Machine.CMT body
  | .rspPos stx addr len body => frameBytes stx addr len Machine.PMT body
  | .rspNeg stx addr len body => frameBytes stx addr len Machine.EMT body
  | .rspNegAlt stx addr len body => frameBytes stx addr len Machine.EMT_ALT body
  | .ack => [Machine.ACK]
  | .nak => [Machine.NAK]
  | .eot => [Machine.EOT]
  | .none_ => [0x00#8]
  | .bccCompute => [0x01#8]
  | .bccVerify => [0x02#8]
  | .encReq => [0x03#8]
  | .decRsp => [0x04#8]
  | .xchg => [0x05#8]
  | .transact => [0x06#8]
  | .reserved7 => [0x07#8]

/-- The bytes of a request frame before its BCC (30_encoding.md R83; 41_frame_codec.md R120): `L = n + 3`. -/
def requestHead (addr cm pm : Byte) (payload : List Byte) : List Byte :=
  let len : Word16 := BitVec.ofNat 16 (payload.length + 3)
  [Machine.STX, addr, Machine.hi len, Machine.lo len, Machine.CMT, cm, pm] ++ payload ++ [Machine.ETX]

/-- The request frame (41_frame_codec.md R120, R123): "everything emitted so far", then its BCC. -/
def requestFrame (addr cm pm : Byte) (payload : List Byte) : List Byte :=
  requestHead addr cm pm payload ++ [Machine.bcc (requestHead addr cm pm payload)]

/-- The REQ instruction ENC.REQ makes of its operands (41_frame_codec.md R126): its encoding is `requestFrame`. -/
def requestInstr (addr cm pm : Byte) (payload : List Byte) : Instr :=
  .req addr (BitVec.ofNat 16 (payload.length + 3))
    ([cm, pm] ++ payload ++ [Machine.ETX, Machine.bcc (requestHead addr cm pm payload)])

/-- The five header bytes of the 40-bit number a frame row of the table is matched on: byte 0 in bits 39:32, byte 4
in bits 7:0 (30_encoding.md R99). -/
def tableHeader (w : Nat) : List Byte :=
  [BitVec.ofNat 8 (w / 2 ^ 32), BitVec.ofNat 8 (w / 2 ^ 24), BitVec.ofNat 8 (w / 2 ^ 16),
    BitVec.ofNat 8 (w / 2 ^ 8), BitVec.ofNat 8 w]

/-- How many bytes a frame has, by its LEN field: `LEN + 6`, at most the buffer (30_encoding.md R80, R91). -/
def tableFrameSize (w : Nat) : Nat := min ((w / 2 ^ 8) % 2 ^ 16 + 6) Config.maxFrame

/-- The frame a table word stands for: its header, then zeros (every bit above the table's is 0). -/
def tableFrame (w : Nat) : List Byte :=
  tableHeader w ++ List.replicate (tableFrameSize w - 5) 0x00#8

/-- The value of a token row (30_encoding.md R88). -/
def isTokenValue (w : Nat) : Bool :=
  w == Machine.ACK.toNat || w == Machine.NAK.toNat || w == Machine.EOT.toNat

/-- Which port a table word belongs to, by its width (30_encoding.md R99): below 8 bits an operation row, more than 8
a frame header, 8 bits a token row. An 8-bit word that is no token is a 3-bit code rounded up to a byte, or the low byte
of a reply row, whose mask covers no more (log entry 5). -/
def tablePort (nbits w : Nat) : Port :=
  if nbits < 8 then .command
  else if 8 < nbits then .frame
  else if isTokenValue w then .token
  else if w < 8 then .command
  else .frame

/-- The bytes of a table word at its port. -/
def tableBytes (nbits w : Nat) : List Byte :=
  match tablePort nbits w with
  | .frame => tableFrame w
  | .token => [BitVec.ofNat 8 w]
  | .command => [BitVec.ofNat 8 w]

/-- The instruction the decoder reads from a word of spec/opcode_table.json, numbered as the table numbers it
(30_encoding.md R99; log entry 5). -/
def decodeTableWord (nbits w : Nat) : Option Instr :=
  match decode (tablePort nbits w) (tableBytes nbits w) with
  | .ok i => some i
  | .error _ => none

end Sys2Proof
end

