-- ==== Sys2Proof/Machine/Codec.lean ====
section
/-! DEFINITION. The frame codec (41_frame_codec.md): ENC.REQ, DEC.RSP, and what the decoder does with each frame kind. -/

namespace Sys2Proof.Machine

/-! ### ENC.REQ -/

/-- The frame ENC.REQ builds from the operand registers (41_frame_codec.md R120). -/
def builtFrame (s : State) : List Byte := requestFrame s.raddr s.rcm s.rpm (payload s)

/-- `ENC.REQ` (41_frame_codec.md R120, R124): the size test on PLEN first (R122), then the frame and its BCC (R123). -/
def encodeRequest (s : State) : State :=
  if Config.maxFrame < 9 + s.plen.toNat then
    raise .frameTooLarge 0x00#8 { clearFailure s with txLen := 0#11 }
  else
    { clearFailure s with
      txBuf := s.txBuf.holding (builtFrame s)
      txLen := BitVec.ofNat 11 (9 + s.plen.toNat)
      bccAcc := bcc (requestHead s.raddr s.rcm s.rpm (payload s)) }

/-- `ENC.REQ` (41_frame_codec.md R120). -/
def execEncReq (s : State) : Host.Outcome State Fault Refusal := .next (whenIdle encodeRequest s)

/-! ### DEC.RSP -/

/-- What `DEC.RSP` writes first (41_frame_codec.md R130). -/
def startDecode (s : State) : State := { clearFailure s with rkind := .none_ }

/-- LEN and the discriminator, read once the buffer has 5 bytes (41_frame_codec.md R130). -/
def readHeader (r : List Byte) (s : State) : State :=
  { s with rlen := be16 (byteAt r 2) (byteAt r 3), rdisc := byteAt r 4 }

/-- The LEN and bounds test with `h` header bytes (41_frame_codec.md R133): `L < h` or `N < L + 4`. -/
def truncated (h : Nat) (len : Word16) (n : Nat) : Bool := len.toNat < h || n < len.toNat + 4

/-- A positive reply (41_frame_codec.md R134): status bytes at 7 to 9, payload from 10 on. -/
def decodePositive (r : List Byte) (s : State) : State :=
  if truncated 6 s.rlen r.length then raise .truncatedFrame 0x00#8 s
  else
    { s with
      rst0 := byteAt r 7, rst1 := byteAt r 8, rst2 := byteAt r 9
      rpoff := 10#11, rplen := BitVec.ofNat 11 (s.rlen.toNat - 6), rkind := .positive }

/-- A negative reply (41_frame_codec.md R135): code bytes at 6 and 7, payload from 9 on; the result is the typed failure
`DeviceError` (R141). -/
def decodeNegative (r : List Byte) (s : State) : State :=
  if truncated 5 s.rlen r.length then raise .truncatedFrame 0x00#8 s
  else
    raise .deviceError 0x00#8
      { s with
        re1 := byteAt r 6, re0 := byteAt r 7
        rpoff := 9#11, rplen := BitVec.ofNat 11 (s.rlen.toNat - 5), rkind := .negative }

/-- The choice by the discriminator (41_frame_codec.md R130, R136; 30_encoding.md R86). -/
def decodeByKind (r : List Byte) (s : State) : State :=
  if s.rdisc = PMT then decodePositive r s
  else if s.rdisc = EMT ∨ s.rdisc = EMT_ALT then decodeNegative r s
  else raise .unknownResponseType s.rdisc s

/-- `decode_response(raw_bytes)` (41_frame_codec.md R130) on a byte sequence: size tests first (R132). -/
def decodeResponse (r : List Byte) (s : State) : State :=
  if Config.maxFrame < r.length then raise .frameTooLarge 0x00#8 (startDecode s)
  else if r.length < 5 then raise .truncatedFrame 0x00#8 (startDecode s)
  else decodeByKind r (readHeader r (startDecode s))

/-- `DEC.RSP` decodes `RXBUF[0 : RXLEN]` and nothing else (41_frame_codec.md R131). -/
def decodeReply (s : State) : State := decodeResponse (rxReply s) s

/-- `DEC.RSP` (41_frame_codec.md R130). -/
def execDecRsp (s : State) : Host.Outcome State Fault Refusal := .next (whenIdle decodeReply s)

/-! ### The frames handed to the decoder (30_encoding.md R86; log entry 4) -/

/-- A request frame handed to the decoder: `UnknownResponseType(0x43)` (41_frame_codec.md R142). ENC.REQ produces the
frame (`encodeRequest`). -/
def execReq (addr : Byte) (len : Word16) (body : List Byte) (s : State) : Host.Outcome State Fault Refusal :=
  .next (whenIdle (decodeResponse (frameBytes STX addr len CMT body)) s)

/-- A positive reply handed to the decoder (41_frame_codec.md R134). -/
def execRspPos (stx addr : Byte) (len : Word16) (body : List Byte) (s : State) : Host.Outcome State Fault Refusal :=
  .next (whenIdle (decodeResponse (frameBytes stx addr len PMT body)) s)

/-- A negative reply handed to the decoder (41_frame_codec.md R135). -/
def execRspNeg (stx addr : Byte) (len : Word16) (body : List Byte) (s : State) : Host.Outcome State Fault Refusal :=
  .next (whenIdle (decodeResponse (frameBytes stx addr len EMT body)) s)

/-- A negative reply with the alternate marker (41_frame_codec.md R135): exactly as with the primary one. -/
def execRspNegAlt (stx addr : Byte) (len : Word16) (body : List Byte) (s : State) :
    Host.Outcome State Fault Refusal :=
  .next (whenIdle (decodeResponse (frameBytes stx addr len EMT_ALT body)) s)

end Sys2Proof.Machine
end

