-- ==== Sys2Proof/Machine/Exchange.lean ====
section
/-! DEFINITION. The exchange sequencer (42_exchange.md): one definition per transition, each running on to the next
transport call that has no answer yet, or to a rest state. They stand last transition first. -/

namespace Sys2Proof.Machine

/-- The end of a successful exchange: inside TRANSACT the reply buffer goes to the decoder (42_exchange.md R173,
43_session.md R190), alone it does not. -/
def handOver (s : State) : State :=
  if s.op = .transact then endOp (decodeReply s) else endOp s

/-- Transition X6 (42_exchange.md R168, R169): blocked in the TWrite of ACK. -/
def awaitAckWrite (s : State) : State :=
  match s.wAns with
  | [] => s
  | a :: as =>
    if a.accepts 1 then handOver (setX .done (leaveW as s))
    else failExchange .transportError 0x00#8 .failTransport (leaveW as s)

/-- ReplyReceived (42_exchange.md R165, R167, R168): the ACK byte is written back once. -/
def acknowledge (s : State) : State :=
  awaitAckWrite (callWrite [ACK] .writeAck (setX .replyReceived s))

/-- `BCCACC` after a use of the checksum unit (10_state.md R35). -/
def setBccAcc (b : Byte) (s : State) : State := { s with bccAcc := b }

/-- `RXLEN <- len(R)` (42_exchange.md R164). -/
def storeReplyLength (s : State) : State := { s with rxLen := s.rxFill }

/-- Transition X5 (42_exchange.md R165, R166): the last byte of the reply buffer against the exclusive-or of the rest. -/
def checkReply (s : State) : State :=
  let s' := recordChecksum (bufferVerifies (rxReply s)) (setBccAcc (bcc (bodyBytes (rxReply s))) s)
  if bufferVerifies (rxReply s) = false ∧ s.strict = true then
    failExchange .checksumMismatch 0x00#8 .failDecode s'
  else acknowledge s'

/-- The reply has been accumulated (42_exchange.md R163, R164): overflow, storage of its length, the empty reply. -/
def replyComplete (s : State) : State :=
  if s.rxOvf then failExchange .frameTooLarge 0x00#8 .failDecode (forgetReply s)
  else if s.rxFill = 0#11 then failExchange .truncatedFrame 0x00#8 .failDecode (storeReplyLength s)
  else checkReply (storeReplyLength s)

/-- An accumulation answered `Err` (42_exchange.md R160, R162): what had arrived is discarded. -/
def readFailed (s : State) : State :=
  failExchange .transportError 0x00#8 .failTransport (forgetReply s)

/-- The second accumulation (42_exchange.md R162). -/
def awaitReply (s : State) : State :=
  match accum s.rAns s with
  | (.blocked, t) => t
  | (.err, t) => readFailed t
  | (.endOfStream, t) => replyComplete t

/-- Transitions X3 and X4 (42_exchange.md R161, R162): the acknowledge was seen; a coalesced reply is the whole reply,
otherwise a second accumulation is run. -/
def ackReceived (s : State) : State :=
  let s' := setX .awaitingReply (setX .ackReceived s)
  if s.rxFill = 0#11 then awaitReply (setCall .readReply s') else replyComplete s'

/-- The NoAck exit (42_exchange.md R161, R177): the first byte, if any, in ERRINFO. -/
def noAck (s : State) : State :=
  failExchange .noAck (noAckInfo s) .failNoAck (forgetReply (recordNoAckByte s))

/-- The first-byte test, after the accumulation has ended (42_exchange.md R161). -/
def firstByteTest (s : State) : State :=
  if s.ackV = true ∧ s.ackByte = ACK then ackReceived s else noAck s

/-- The first accumulation (42_exchange.md R159, R160). -/
def awaitAck (s : State) : State :=
  match accum s.rAns s with
  | (.blocked, t) => t
  | (.err, t) => readFailed t
  | (.endOfStream, t) => firstByteTest t

/-- Transition X2 (42_exchange.md R159). -/
def requestSent (s : State) : State :=
  awaitAck (setCall .readAck (setX .awaitingAck (setX .sent s)))

/-- Transition X1 (42_exchange.md R158): blocked in the TWrite of the request. -/
def awaitRequestWrite (s : State) : State :=
  match s.wAns with
  | [] => s
  | a :: as =>
    if a.accepts s.txLen.toNat then requestSent (leaveW as s)
    else failExchange .transportError 0x00#8 .failTransport (leaveW as s)

/-- The start actions (42_exchange.md R157; 10_state.md R36; log entry 14). -/
def clearExchange (o : Op) (s : State) : State :=
  { clearFailure s with
    bccErr := false, noAckV := false, rkind := .none_, rxLen := 0#11, rxBuf := s.rxBuf.forget
    ackByte := 0x00#8, ackV := false, rxOvf := false, rxFill := 0#11, strict := cfgStrict s, op := o }

/-- One exchange from its start (42_exchange.md R157, R158, R171). -/
def startExchange (o : Op) (s : State) : State :=
  awaitRequestWrite (callWrite (txFrame s) .writeRequest (clearExchange o s))

/-- `XCHG` (42_exchange.md R156): a start with TXLEN = 0 is refused and changes nothing. -/
def exchange (s : State) : State := if s.txLen = 0#11 then s else startExchange .xchg s

/-- `XCHG` (42_exchange.md R156, R171). -/
def execXchg (s : State) : Host.Outcome State Fault Refusal := .next (whenIdle exchange s)

/-- The operation in progress goes on as far as the answers that stand ready let it; without one it waits
(42_exchange.md R155, 60_exceptions.md R220; 93_implementation_defined.md U10; log entry 3). -/
def resume (s : State) : State :=
  match s.call with
  | .none_ => s
  | .writeRequest => awaitRequestWrite s
  | .readAck => awaitAck s
  | .readReply => awaitReply s
  | .writeAck => awaitAckWrite s

/-! ### Tokens (30_encoding.md R88, R94; log entry 4) -/

/-- A token standing first when the acknowledge accumulation ends (42_exchange.md R161); outside the acknowledge phase
no byte has a special meaning (R177, 60_exceptions.md R208). -/
def tokenFirst (b : Byte) (s : State) : State :=
  if s.call = .readAck then firstByteTest { s with ackByte := b, ackV := true } else s

/-- `ACK` (42_exchange.md R161). -/
def execAck (s : State) : Host.Outcome State Fault Refusal := .next (tokenFirst ACK s)

/-- `NAK`: NoAck, as any byte but ACK (42_exchange.md R177). -/
def execNak (s : State) : Host.Outcome State Fault Refusal := .next (tokenFirst NAK s)

/-- `EOT`: NoAck, as any byte but ACK (42_exchange.md R177). -/
def execEot (s : State) : Host.Outcome State Fault Refusal := .next (tokenFirst EOT s)

end Sys2Proof.Machine
end

