-- ==== Sys2Proof/Machine/Session.lean ====
section
/-! DEFINITION. TRANSACT and the session facade (43_session.md), the typed results and the text tables. -/

namespace Sys2Proof.Machine

/-- `TRANSACT` (43_session.md R190): encode, exchange, decode; the first failure ends it. -/
def transaction (s : State) : State :=
  let s' := encodeRequest s
  if s'.err = .none_ then startExchange .transact s' else s'

/-- `TRANSACT` (43_session.md R190). -/
def execTransact (s : State) : Host.Outcome State Fault Refusal := .next (whenIdle transaction s)

/-! ### Text tables (00_scope.md R11, 41_frame_codec.md R138, R139; log entry 12) -/

/-- `ERRMSG` (41_frame_codec.md R138): the one given entry, else the rest of the table, else the empty string. -/
def errMsg (e1 e0 : Byte) : String :=
  if e1 = 0x31#8 ∧ e0 = 0x30#8 then "Card Jam" else (Config.otherMessage e1 e0).getD ""

/-- `STNAME0` (41_frame_codec.md R139). -/
def stName0 (b : Byte) : String :=
  if b = 0x32#8 then "One Card on RF/IC Card Position" else (Config.otherName0 b).getD ""

/-- `STNAME1` (41_frame_codec.md R139). -/
def stName1 (b : Byte) : String :=
  if b = 0x32#8 then "Enough Cards in card box" else (Config.otherName1 b).getD ""

/-- `STNAME2` (41_frame_codec.md R139). -/
def stName2 (b : Byte) : String :=
  if b = 0x30#8 then "Error card bin not full" else (Config.otherName2 b).getD ""

/-! ### Typed results (43_session.md R195) -/

/-- What the host reads from XSTATE, ERR and RKIND together, one constructor per meaning of the table (43_session.md R195).
`acknowledged` tells whether XSTATE is `Done`, as in the table; a decoder run on a buffer of the host's own (41_frame_codec.md
R131) gives the same results in another XSTATE (log entry 17). -/
inductive Result where
  /-- Success: status bytes, their names, payload. -/
  | positive (acknowledged : Bool) (st0 st1 st2 : Byte) (names : List String) (payload : List Byte)
  /-- The device refused: code, message, payload. -/
  | deviceError (acknowledged : Bool) (e1 e0 : Byte) (message : String) (payload : List Byte)
  /-- The reply was not understood: the discriminator. -/
  | unknownResponse (acknowledged : Bool) (discriminator : Byte)
  /-- The reply is shorter than its LEN field needs. -/
  | truncatedReply (acknowledged : Bool)
  /-- The registers of the row `Done`, `None`, `None`: the exchange is complete and DEC.RSP has not run yet. Two other
  histories leave the same registers and read the same (DEDUCED, log entry 17). -/
  | notDecoded
  /-- The device did not acknowledge the request: ERRINFO and NOACKV. -/
  | noAck (info : Byte) (byteArrived : Bool)
  /-- An I/O failure. -/
  | transportFailure
  /-- The sequencer rejected the reply buffer. -/
  | replyRejected (f : Err)
  /-- The encoder refused the request. -/
  | requestRefused
  /-- No failure and no result: no row of the table (log entry 17). -/
  | noResult
  deriving DecidableEq, Repr

/-- The payload view `RXBUF[RPOFF : RPOFF + RPLEN]` (10_state.md R28, 43_session.md R195). -/
def replyPayload (s : State) : List Byte :=
  (List.range s.rplen.toNat).map fun i => s.rxBuf.get .rx (s.rpoff.toNat + i)

/-- The typed result when no failure is recorded (43_session.md R195). DEDUCED (log entry 17): the registers alone decide, so
`Done`, `None`, `None` reads `notDecoded` also while a new exchange is blocked in its request write and XSTATE is still the
old `Done` (42_exchange.md R157), when the host cannot read ERR and RKIND (10_state.md R39), and after an ENC.REQ that
cleared ERR of a failed decode (10_state.md R32). -/
def resultWithoutFailure (s : State) : Result :=
  match s.rkind with
  | .positive =>
    .positive (s.xstate == .done) s.rst0 s.rst1 s.rst2 [stName0 s.rst0, stName1 s.rst1, stName2 s.rst2] (replyPayload s)
  | .none_ => if s.xstate = .done then .notDecoded else .noResult
  | .negative => .noResult

/-- The typed result of the latest operation that can fail (43_session.md R195, 41_frame_codec.md R138, R139, R141).
XSTATE tells the sequencer's TruncatedFrame from the decoder's, TXLEN = 0 the encoder's FrameTooLarge from the
sequencer's. -/
def result (s : State) : Result :=
  match s.err with
  | .none_ => resultWithoutFailure s
  | .deviceError => .deviceError (s.xstate == .done) s.re1 s.re0 (errMsg s.re1 s.re0) (replyPayload s)
  | .unknownResponseType => .unknownResponse (s.xstate == .done) s.errInfo
  | .truncatedFrame =>
    if s.xstate = .failDecode then .replyRejected .truncatedFrame else .truncatedReply (s.xstate == .done)
  | .noAck => .noAck s.errInfo s.noAckV
  | .transportError => .transportFailure
  | .checksumMismatch => .replyRejected .checksumMismatch
  | .frameTooLarge => if s.txLen = 0#11 then .requestRefused else .replyRejected .frameTooLarge

/-! ### The named operations (43_session.md R192, 30_encoding.md R98) -/

/-- What the host presents in PLEN for a payload: its length, and 65535 for every longer one, which cannot be presented
(10_state.md R22). DESIGN CHOICE (log entry 7): TRANSACT then ends in FrameTooLarge, as the size test on the whole payload
would (92_eei_decisions.md D2). -/
def presentedLength (bytes : List Byte) : Nat := min bytes.length (2 ^ 16 - 1)

/-- What the host does to run a named operation: TRANSACT with the command byte the name fixes, the caller's parameter
and payload. Of a payload of 65536 bytes or more it presents the first 65535 (DESIGN CHOICE, log entry 7): no earlier
P is ever sent in its place. -/
def sessionScript (o : Config.SessionOp) (pm : Byte) (bytes : List Byte) : List Event :=
  [.write (.rcm (Config.commandByte o)), .write (.rpm pm), .write (.plen (BitVec.ofNat 16 (presentedLength bytes))),
    .write (.payload (bytes.take (presentedLength bytes))), .opsel 6#3]

end Sys2Proof.Machine
end

