-- ==== Sys2Proof/Machine/Dispatch.lean ====
section
/-! DEFINITION. One arm per constructor of Instr. -/

namespace Sys2Proof.Machine

def exec (i : Instr) (s : State) : Host.Outcome State Fault Refusal :=
  match i with
  | .req addr len body => Sys2Proof.Machine.execReq addr len body s
  | .rspPos stx addr len body => Sys2Proof.Machine.execRspPos stx addr len body s
  | .rspNeg stx addr len body => Sys2Proof.Machine.execRspNeg stx addr len body s
  | .rspNegAlt stx addr len body => Sys2Proof.Machine.execRspNegAlt stx addr len body s
  | .ack => Sys2Proof.Machine.execAck s
  | .nak => Sys2Proof.Machine.execNak s
  | .eot => Sys2Proof.Machine.execEot s
  | .none_ => Sys2Proof.Machine.execNone s
  | .bccCompute => Sys2Proof.Machine.execBccCompute s
  | .bccVerify => Sys2Proof.Machine.execBccVerify s
  | .encReq => Sys2Proof.Machine.execEncReq s
  | .decRsp => Sys2Proof.Machine.execDecRsp s
  | .xchg => Sys2Proof.Machine.execXchg s
  | .transact => Sys2Proof.Machine.execTransact s
  | .reserved7 => Sys2Proof.Machine.execReserved7 s

end Sys2Proof.Machine
end

