-- ==== Sys2Proof/Machine/HostPort.lean ====
section
/-! DEFINITION. The host's side of the block: register and buffer writes and reads under the access rule (10_state.md
R39), OPSEL, reset, and the late answers of the transport. -/

namespace Sys2Proof.Machine

/-! ### Writes (10_state.md R39) -/

/-- A host write on an idle block (10_state.md R39): read-only registers and a too large RXLEN or payload are refused
and change nothing (R22, R26; 93_implementation_defined.md U7). -/
def writeIdle (w : HostWrite) (s : State) : State :=
  match w with
  | .raddr v => { s with raddr := v }
  | .rcm v => { s with rcm := v }
  | .rpm v => { s with rpm := v }
  | .plen v => { s with plen := v, pEpoch := s.pEpoch + 1 }
  | .payload bs => if bs.length < 2 ^ 16 then { s with p := bs, pEpoch := s.pEpoch + 1 } else s
  | .cfg v => { s with cfg := cfgWritten v }
  | .bccIn v => { s with bccIn := v }
  | .rxLen v => if v.toNat ≤ Config.maxFrame then { s with rxLen := v } else s
  | .rxBuf i b => { s with rxBuf := s.rxBuf.put i b }
  | .readOnly _ _ => s
  | .txBuf _ _ => s

/-- The index at which a permitted write misses its buffer: RXBUF has the indices 0 to 1023 (20_memory.md R60). A write
of TXBUF is refused at every index (10_state.md R25) and never gets there. -/
def HostWrite.missing : HostWrite → Option Nat
  | .rxBuf i _ => if i < Config.maxFrame then none else some i
  | .txBuf _ _ => none
  | .raddr _ => none
  | .rcm _ => none
  | .rpm _ => none
  | .plen _ => none
  | .payload _ => none
  | .cfg _ => none
  | .bccIn _ => none
  | .rxLen _ => none
  | .readOnly _ _ => none

/-- A host write (10_state.md R39): refused on a busy block, whatever it names (93_implementation_defined.md U7); on an
idle block a byte of RXBUF that does not exist is a fault (log entry 13). -/
def hostWrite (w : HostWrite) (s : State) : Host.Outcome State Fault Refusal :=
  if s.isIdle then
    match w.missing with
    | none => .next (writeIdle w s)
    | some i => .fault (.noSuchIndex i)
  else .next s

/-! ### Reads (10_state.md R39) -/

/-- A 1-bit register as the host reads it. -/
def flagWord (b : Bool) : Word16 := if b then 1#16 else 0#16

/-- What an idle block answers to a register read: `none` where the spec gives no defined value, a hidden register
(10_state.md R35, R36, R39) or a stale result register (R28; 93_implementation_defined.md U4). -/
def regValue (r : Reg) (s : State) : Option Word16 :=
  match r with
  | .raddr => some (s.raddr.setWidth 16)
  | .rcm => some (s.rcm.setWidth 16)
  | .rpm => some (s.rpm.setWidth 16)
  | .plen => some s.plen
  | .xstate => some (s.xstate.code.setWidth 16)
  | .txLen => some (s.txLen.setWidth 16)
  | .rxLen => some (s.rxLen.setWidth 16)
  | .rkind => some (s.rkind.code.setWidth 16)
  | .rlen => some s.rlen
  | .rdisc => some (s.rdisc.setWidth 16)
  | .rst0 => if s.rkind = .positive then some (s.rst0.setWidth 16) else none
  | .rst1 => if s.rkind = .positive then some (s.rst1.setWidth 16) else none
  | .rst2 => if s.rkind = .positive then some (s.rst2.setWidth 16) else none
  | .re1 => if s.rkind = .negative then some (s.re1.setWidth 16) else none
  | .re0 => if s.rkind = .negative then some (s.re0.setWidth 16) else none
  | .rpoff => if s.rkind = .none_ then none else some (s.rpoff.setWidth 16)
  | .rplen => if s.rkind = .none_ then none else some (s.rplen.setWidth 16)
  | .cfg => some (s.cfg.setWidth 16)
  | .err => some (s.err.code.setWidth 16)
  | .errInfo => some (s.errInfo.setWidth 16)
  | .bccErr => some (flagWord s.bccErr)
  | .noAckV => some (flagWord s.noAckV)
  | .bccAcc => none
  | .bccIn => some (s.bccIn.setWidth 16)
  | .bccOut => some (s.bccOut.setWidth 16)
  | .bccOk => some (flagWord s.bccOk)
  | .ackByte => none
  | .ackV => none
  | .rxOvf => none

/-- A byte of a buffer as the host reads it: at or above the length register, and so at every index that does not
exist, it has no value (10_state.md R40, 93_implementation_defined.md U5). -/
def bufferValue (sp : Config.Space) (m : Memory) (len : Len11) (i : Nat) : Option Word16 :=
  if i < len.toNat ∧ i < Config.maxFrame then some ((m.get sp i).setWidth 16) else none

/-- What a host read finds: while an operation runs only XSTATE is readable (10_state.md R39; log entry 8). -/
def readValue (r : HostRead) (s : State) : Option Word16 :=
  if s.isIdle then
    match r with
    | .reg r => regValue r s
    | .payload i => if i < s.plen.toNat then some ((byteAt (payload s) i).setWidth 16) else none
    | .txBuf i => bufferValue .tx s.txBuf s.txLen i
    | .rxBuf i => bufferValue .rx s.rxBuf s.rxLen i
  else if r = .reg .xstate then regValue .xstate s
  else none

/-- The host's read completes: a defined value, or a free one (log entry 8). Nothing of the block changes. -/
def hostRead (r : HostRead) (s : State) : State :=
  match readValue r s with
  | some v => { s with hostData := v }
  | none => { s with hostData := Config.undefinedRead s.freeCtr, freeCtr := s.freeCtr + 1 }

/-! ### Reset (70_reset_and_hazards.md R230, R232) -/

/-- Reset at any time: every register of the reset table, both buffers unspecified; the transport and the host keep what
is theirs (70_reset_and_hazards.md R232; log entry 11). -/
def resetBlock (s : State) : State :=
  { State.reset with
    txBuf := s.txBuf.forget, rxBuf := s.rxBuf.forget, pEpoch := s.pEpoch + 1
    inbox := s.inbox, wAns := s.wAns, rAns := s.rAns
    freeCtr := s.freeCtr, hostData := s.hostData, trace := .reset :: s.trace }

/-! ### Events -/

/-- What an event does (10_state.md R39, 30_encoding.md R92, 42_exchange.md R151, R152, 70_reset_and_hazards.md R232). -/
def serve (e : Event) (s : State) : Host.Outcome State Fault Refusal :=
  match e with
  | .opsel code => exec (decodeOpsel code) s
  | .write w => hostWrite w s
  | .read r => .next (hostRead r s)
  | .reset => .next (resetBlock s)
  | .wAnswer a => .next (resume (leaveW (s.wAns ++ [a]) s))
  | .rAnswer a => .next (resume (leaveR (s.rAns ++ [a]) s))

end Sys2Proof.Machine
end

