-- ==== Sys2Proof/Machine/Fetch.lean ====
section
/-! DEFINITION. Where the next instruction is fetched, and how one is placed there (log entries 2 and 4). -/

namespace Sys2Proof.Machine

/-- What the host does from here on. -/
def leaveInbox (es : List Event) (s : State) : State := { s with inbox := es }

/-- The machine's next step: the first event of the inbox; without one the operation in progress goes on, or the idle
block waits for the host (70_reset_and_hazards.md R230). -/
def nextStep (s : State) : Host.Outcome State Fault Refusal :=
  match s.inbox with
  | [] => .next (resume s)
  | e :: es => serve e (leaveInbox es s)

/-- An OPSEL code is fetched from the command port: the host's next write. -/
def placeCode (code : BitVec 3) (s : State) : State := { s with inbox := .opsel code :: s.inbox }

/-- A frame is fetched by DEC.RSP from RXBUF: the host loads it there (10_state.md R26) and starts DEC.RSP. -/
def placeFrame (bytes : List Byte) (s : State) : State :=
  placeCode 4#3
    { s with rxBuf := s.rxBuf.holding bytes, rxLen := BitVec.ofNat 11 bytes.length }

/-- A token is fetched when the first accumulation of an exchange ends: the block stands in AwaitingAck, the token is
the byte accumulated, and end-of-stream is the transport's next answer (42_exchange.md R161). -/
def placeToken (b : Byte) (s : State) : State :=
  { s with
    xstate := .awaitingAck, call := .readAck, op := .xchg, ackByte := b, ackV := true
    rAns := [], inbox := .rAnswer .endOfStream :: s.inbox }

/-- A word of spec/opcode_table.json placed where the next step fetches it (log entries 4 and 5). -/
def placeWord (nbits w : Nat) (s : State) : State :=
  match tablePort nbits w with
  | .command => placeCode (BitVec.ofNat 3 w) s
  | .token => placeToken (BitVec.ofNat 8 w) s
  | .frame => placeFrame (tableFrame w) s

end Sys2Proof.Machine
end

