-- ==== Sys2Proof/Machine/Step.lean ====
section
/-! DEFINITION. One step of the machine, and the placing of a table word before it. -/

namespace Sys2Proof.Machine

/-- One step (log entry 2). -/
def step (s : State) : Host.Outcome State Fault Refusal := nextStep s

/-- `s` with a word of spec/opcode_table.json stored where the next step fetches its instruction (log entries 4, 5). -/
def State.withFetchWord (s : State) (nbits w : Nat) : State := placeWord nbits w s

end Sys2Proof.Machine
end

