-- ==== Sys2Proof/Machine/Logical.lean ====
section
/-! DEFINITION. The exchange of 42_exchange.md R171 once more, as a function of byte sequences: the logical accumulation
`A` without the storage of R154 (92_eei_decisions.md D1). `step` does not call it; statements compare the sequencer
with it. -/

namespace Sys2Proof.Machine

/-- What a run of TRead calls over these answers delivers (42_exchange.md R154): how it ended, the logical buffer, the
answers left. -/
def gather : List RAnswer → AccumEnd × List Byte × List RAnswer
  | [] => (.blocked, [], [])
  | .data c :: as => ((gather as).1, c ++ (gather as).2.1, (gather as).2.2)
  | .endOfStream :: as => (.endOfStream, [], as)
  | .err :: as => (.err, [], as)

/-- What an exchange leaves where another agent can see it. -/
structure ExchangeView where
  xstate : XState
  call : Call
  err : Err
  errInfo : Byte
  noAckV : Bool
  bccErr : Bool
  /-- `RXBUF[0 : RXLEN]`. -/
  reply : List Byte
  /-- The sequences given to TWrite, in order. -/
  writes : List (List Byte)
  wLeft : List WAnswer
  rLeft : List RAnswer
  deriving DecidableEq, Repr

/-- An exchange blocked in a call: nothing has failed yet. -/
def blockedView (x : XState) (c : Call) (reply : List Byte) (bad : Bool) (writes : List (List Byte)) (w : List WAnswer) :
    ExchangeView :=
  { xstate := x, call := c, err := .none_, errInfo := 0x00#8, noAckV := false, bccErr := bad, reply := reply
    writes := writes, wLeft := w, rLeft := [] }

/-- `fail(F, S)` (42_exchange.md R171). -/
def failView (f : Err) (x : XState) (reply : List Byte) (bad : Bool) (writes : List (List Byte)) (w : List WAnswer)
    (r : List RAnswer) : ExchangeView :=
  { xstate := x, call := .none_, err := f, errInfo := 0x00#8, noAckV := false, bccErr := bad, reply := reply
    writes := writes, wLeft := w, rLeft := r }

/-- The ACK write (42_exchange.md R168, R169). -/
def logicalAckWrite (tx reply : List Byte) (bad : Bool) (w : List WAnswer) (r : List RAnswer) : ExchangeView :=
  match w with
  | [] => { blockedView .replyReceived .writeAck reply bad [tx, [ACK]] [] with rLeft := r }
  | .ok 1 :: w' => { failView .none_ .done reply bad [tx, [ACK]] w' r with err := .none_ }
  | _ :: w' => failView .transportError .failTransport reply bad [tx, [ACK]] w' r

/-- From the reply on (42_exchange.md R163 to R169). -/
def logicalReply (tx : List Byte) (strict : Bool) (reply : List Byte) (w : List WAnswer) (r : List RAnswer) :
    ExchangeView :=
  if Config.maxFrame < reply.length then failView .frameTooLarge .failDecode [] false [tx] w r
  else if reply = [] then failView .truncatedFrame .failDecode [] false [tx] w r
  else if bufferVerifies reply then logicalAckWrite tx reply false w r
  else if strict then failView .checksumMismatch .failDecode reply true [tx] w r
  else logicalAckWrite tx reply true w r

/-- From the first accumulation on (42_exchange.md R160 to R162). -/
def logicalAck (tx : List Byte) (strict : Bool) (w : List WAnswer) (r : List RAnswer) : ExchangeView :=
  match gather r with
  | (.blocked, _, _) => blockedView .awaitingAck .readAck [] false [tx] w
  | (.err, _, r') => failView .transportError .failTransport [] false [tx] w r'
  | (.endOfStream, [], r') => failView .noAck .failNoAck [] false [tx] w r'
  | (.endOfStream, a :: rest, r') =>
    if a ≠ ACK then { failView .noAck .failNoAck [] false [tx] w r' with errInfo := a, noAckV := true }
    else if rest ≠ [] then logicalReply tx strict rest w r'
    else
      match gather r' with
      | (.blocked, _, _) => blockedView .awaitingReply .readReply [] false [tx] w
      | (.err, _, r'') => failView .transportError .failTransport [] false [tx] w r''
      | (.endOfStream, reply, r'') => logicalReply tx strict reply w r''

/-- One exchange (42_exchange.md R171) of the request `tx` started in the rest state `x`. -/
def logicalExchange (x : XState) (tx : List Byte) (strict : Bool) (w : List WAnswer) (r : List RAnswer) :
    ExchangeView :=
  match w with
  | [] => { blockedView x .writeRequest [] false [tx] [] with rLeft := r }
  | a :: w' =>
    if a.accepts tx.length then logicalAck tx strict w' r
    else failView .transportError .failTransport [] false [tx] w' r

/-- The sequences given to TWrite, oldest first. -/
def writesOf (trace : List Obs) : List (List Byte) :=
  (trace.filterMap fun o => match o with
    | .write b => some b
    | .enter _ => none
    | .read _ => none
    | .reset => none).reverse

/-- A trace without the answered reads: the transitions, the writes and the resets. -/
def withoutReads (trace : List Obs) : List Obs :=
  trace.filter fun o => match o with
    | .read _ => false
    | .enter _ => true
    | .write _ => true
    | .reset => true

/-- What of a state an exchange started in `s₀` is compared by. -/
def exchangeView (s₀ s : State) : ExchangeView :=
  { xstate := s.xstate, call := s.call, err := s.err, errInfo := s.errInfo, noAckV := s.noAckV, bccErr := s.bccErr
    reply := rxReply s, writes := (writesOf s.trace).drop (writesOf s₀.trace).length
    wLeft := s.wAns, rLeft := s.rAns }

/-- The answers to TRead one byte a chunk, empty chunks dropped. -/
def bytewise (as : List RAnswer) : List RAnswer :=
  as.flatMap fun a => match a with
    | .data c => c.map fun b => .data [b]
    | .endOfStream => [.endOfStream]
    | .err => [.err]

end Sys2Proof.Machine
end

