-- ==== Sys2Proof/Safety.lean ====
section
/-! DEFINITION. What counts as a safe run: the invariants of the block, in the terms statements use. -/

namespace Sys2Proof.Safety

open Sys2Proof.Machine

/-! ### Buffers and lengths (10_state.md R41) -/

/-- Both buffers are in canonical form: indices strictly rising and below 1024 (20_memory.md R60, R67). -/
def BuffersCanonical (s : State) : Prop := s.txBuf.wf = true ∧ s.rxBuf.wf = true

/-- RXLEN, and the fill index of an accumulation, stay within the buffer (10_state.md R41; 20_memory.md R67). -/
def ReplyLengthsFit (s : State) : Prop :=
  s.rxLen.toNat ≤ Config.maxFrame ∧ s.rxFill.toNat ≤ Config.maxFrame

/-- TXBUF holds no frame or a whole request frame (10_state.md R41). -/
def RequestFrameWhole (s : State) : Prop :=
  s.txLen = 0#11 ∨
    (9 ≤ s.txLen.toNat ∧ s.txLen.toNat ≤ Config.maxFrame ∧
      s.txBuf.get .tx 0 = STX ∧ s.txBuf.get .tx 4 = CMT ∧
      (be16 (s.txBuf.get .tx 2) (s.txBuf.get .tx 3)).toNat = s.txLen.toNat - 6 ∧
      s.txBuf.get .tx (s.txLen.toNat - 2) = ETX ∧
      bcc (txFrame s) = 0x00#8)

/-- The reserved bits 7:1 of CFG read as 0 (10_state.md R29). -/
def CfgReservedZero (s : State) : Prop := s.cfg &&& 0xFE#8 = 0x00#8

/-! ### The sequencer (10_state.md R24, 42_exchange.md) -/

/-- XSTATE agrees with the call in progress: a rest state when none is, or while the request is being written
(42_exchange.md R157, R158), else the state of R159, R162, R165. -/
def callAgrees (s : State) : Bool :=
  match s.call with
  | .none_ => s.xstate.isRest && s.op == .none_
  | .writeRequest => s.xstate.isRest && s.op != .none_
  | .readAck => s.xstate == .awaitingAck && s.op != .none_
  | .readReply => s.xstate == .awaitingReply && s.op != .none_
  | .writeAck => s.xstate == .replyReceived && s.op != .none_

/-- While an exchange is in progress no failure, decode result or NoAck byte is shown, the bad-checksum flag is up only
once the reply is stored, and the reply is readable only then (42_exchange.md R157, R164, R165). -/
def runningCleared (s : State) : Bool :=
  s.call == .none_ ||
    (s.err == .none_ && s.errInfo == 0x00#8 && s.rkind == .none_ && !s.noAckV &&
      (if s.call == .writeAck then s.rxLen == s.rxFill && s.rxFill != 0#11 && (!s.bccErr || !s.strict)
        else s.rxLen == 0#11 && !s.bccErr))

/-- The second accumulation and the ACK write come after an ACK byte (42_exchange.md R161; 20_memory.md R71). -/
def ackSeen (s : State) : Bool :=
  (s.call != .readReply && s.call != .writeAck) || (s.ackV && s.ackByte == ACK)

/-- The sequencer's state hangs together. -/
def SequencerCoherent (s : State) : Prop :=
  callAgrees s = true ∧ runningCleared s = true ∧ ackSeen s = true

/-! ### What other agents see (20_memory.md R61, R70, R71; 42_exchange.md R158 to R172) -/

/-- Where an observer of XSTATE and the transport places the block. -/
inductive Phase where
  | rest (x : XState)
  /-- The request was given to TWrite in this rest state. -/
  | requestOut (x : XState)
  | sent
  | awaitingAck
  /-- The first accumulation ended. -/
  | ackEnded
  | ackErr
  | ackReceived
  /-- No TRead has been answered since; a coalesced reply may be taken. -/
  | awaitingReply
  /-- The second accumulation is under way. -/
  | readingReply
  | replyEnded
  | replyErr
  | replyReceived
  /-- The ACK byte was given to TWrite. -/
  | ackOut
  deriving DecidableEq, Repr

/-- The protocol: which observation may follow in a phase (42_exchange.md R158 to R170). -/
def follow (o : Obs) (ph : Phase) : Option Phase :=
  match o, ph with
  | .reset, _ => some (.rest .idle)
  | .write _, .rest x => if x.isRest then some (.requestOut x) else none
  | .enter .sent, .requestOut _ => some .sent
  | .enter .failTransport, .requestOut _ => some (.rest .failTransport)
  | .enter .awaitingAck, .sent => some .awaitingAck
  | .read (.data _), .awaitingAck => some .awaitingAck
  | .read .endOfStream, .awaitingAck => some .ackEnded
  | .read .err, .awaitingAck => some .ackErr
  | .enter .failTransport, .ackErr => some (.rest .failTransport)
  | .enter .failNoAck, .ackEnded => some (.rest .failNoAck)
  | .enter .ackReceived, .ackEnded => some .ackReceived
  | .enter .awaitingReply, .ackReceived => some .awaitingReply
  | .read (.data _), .awaitingReply => some .readingReply
  | .read .endOfStream, .awaitingReply => some .replyEnded
  | .read .err, .awaitingReply => some .replyErr
  | .read (.data _), .readingReply => some .readingReply
  | .read .endOfStream, .readingReply => some .replyEnded
  | .read .err, .readingReply => some .replyErr
  | .enter .failTransport, .replyErr => some (.rest .failTransport)
  | .enter .failDecode, .awaitingReply => some (.rest .failDecode)
  | .enter .failDecode, .replyEnded => some (.rest .failDecode)
  | .enter .replyReceived, .awaitingReply => some .replyReceived
  | .enter .replyReceived, .replyEnded => some .replyReceived
  | .write b, .replyReceived => if b = [ACK] then some .ackOut else none
  | .enter .done, .ackOut => some (.rest .done)
  | .enter .failTransport, .ackOut => some (.rest .failTransport)
  | _, _ => none

/-- The phase a whole trace (newest first) leads to from reset, `none` if it breaks the protocol. -/
def phaseOf : List Obs → Option Phase
  | [] => some (.rest .idle)
  | o :: os => (phaseOf os).bind (follow o)

/-- A state stands in a phase. -/
def standsIn (s : State) : Phase → Bool
  | .rest x => s.call == .none_ && s.xstate == x
  | .requestOut x => s.call == .writeRequest && s.xstate == x
  | .awaitingAck => s.call == .readAck && s.xstate == .awaitingAck
  | .awaitingReply => s.call == .readReply && s.xstate == .awaitingReply
  | .readingReply => s.call == .readReply && s.xstate == .awaitingReply
  | .ackOut => s.call == .writeAck && s.xstate == .replyReceived
  | .sent => false
  | .ackEnded => false
  | .ackErr => false
  | .ackReceived => false
  | .replyEnded => false
  | .replyErr => false
  | .replyReceived => false

/-- Everything observed since the start keeps to the protocol, and the state stands where it leads. -/
def FollowsProtocol (s : State) : Prop := ∃ ph, phaseOf s.trace = some ph ∧ standsIn s ph = true

/-! ### Premises about the transport (70_reset_and_hazards.md R244) -/

/-- How many accumulations these answers end. -/
def endings : List RAnswer → Nat
  | [] => 0
  | .data _ :: as => endings as
  | .endOfStream :: as => endings as + 1
  | .err :: as => endings as + 1

/-- The transport answers both writes and ends both accumulations (70_reset_and_hazards.md R244). -/
def TransportAnswers (s : State) : Prop := 2 ≤ s.wAns.length ∧ 2 ≤ endings s.rAns

end Sys2Proof.Safety
end

