-- ==== Sys2Proof/Certificates/Slice0/Obligations.lean ====
section
/-! DEFINITION. The statements for the provers. Each docstring names the rule of spec/ it formalises. -/

open Sys2Proof Sys2Proof.Machine Sys2Proof.Safety

/-! ### Encodings -/

/-- 30_encoding.md R83 to R92: decoding the encoding of a well-formed instruction gives it back, every operand at every
value. -/
def Obligations.DecodeOfEncodeIsTheInstruction : Prop :=
  ∀ i : Instr, i.wellFormed = true → decode i.port (encode i) = .ok i

/-- 30_encoding.md R83 to R92: bytes that decode are the encoding of what they decode to; nothing is dropped. -/
def Obligations.EncodeOfDecodeIsTheBytes : Prop :=
  ∀ (p : Port) (bs : List Byte) (i : Instr), decode p bs = .ok i → i.port = p ∧ encode i = bs

/-- 41_frame_codec.md R121, R126 (marked derived in the spec): what ENC.REQ builds is a well-formed request, and every
well-formed request is one it can build. -/
def Obligations.WellFormedRequestsAreTheEncodersFrames : Prop :=
  (∀ (a c p : Byte) (bs : List Byte), bs.length ≤ Config.maxPayload →
      (requestInstr a c p bs).wellFormed = true ∧ encode (requestInstr a c p bs) = requestFrame a c p bs) ∧
    ∀ (a : Byte) (len : Word16) (body : List Byte), (Instr.req a len body).wellFormed = true →
      ∃ (c p : Byte) (bs : List Byte), bs.length ≤ Config.maxPayload ∧ Instr.req a len body = requestInstr a c p bs

/-- Words written out from 30_encoding.md R84, R85, R88, R92 and the vectors V-ENC-1, V-DEC-3 decode as they should. -/
def Obligations.WrittenOutWordsDecode : Prop :=
  decode .frame [0xF2#8, 0x00#8, 0x00#8, 0x03#8, 0x43#8, 0x31#8, 0x30#8, 0x03#8, 0xB0#8]
      = .ok (requestInstr 0x00#8 0x31#8 0x30#8 []) ∧
    decode .frame [0xF2#8, 0x00#8, 0x00#8, 0x05#8, 0x45#8, 0x31#8, 0x31#8, 0x30#8, 0x30#8, 0x03#8, 0xB1#8]
      = .ok (.rspNeg 0xF2#8 0x00#8 5#16 [0x31#8, 0x31#8, 0x30#8, 0x30#8, 0x03#8, 0xB1#8]) ∧
    decode .token [0x15#8] = .ok .nak ∧
    decode .command [0x05#8] = .ok .xchg

/-- 20_memory.md R62, 00_scope.md R14: LEN is read high byte first, and written so. -/
def Obligations.LenFieldIsBigEndian : Prop :=
  (∀ h l : Byte, (be16 h l).toNat = 256 * h.toNat + l.toNat) ∧
    (∀ (stx a h l : Byte) (body : List Byte), 5 + body.length ≤ Config.maxFrame →
      ∃ len : Word16, decodeFrame (stx :: a :: h :: l :: PMT :: body) = .ok (.rspPos stx a len body) ∧
        len.toNat = 256 * h.toNat + l.toNat) ∧
    ∀ (stx a : Byte) (len : Word16) (body : List Byte),
      256 * (byteAt (encode (.rspPos stx a len body)) 2).toNat + (byteAt (encode (.rspPos stx a len body)) 3).toNat
        = len.toNat

/-! ### The checksum unit -/

/-- 40_checksum.md R111 (marked derived in the spec): each bit is a parity, the value of a concatenation is the
exclusive-or of the values, and the order of the bytes does not matter. -/
def Obligations.ChecksumIsBitwiseParity : Prop :=
  (∀ (bs : List Byte) (i : Nat), i < 8 →
      (bcc bs).getLsbD i = ((bs.filter fun b => b.getLsbD i).length % 2 == 1)) ∧
    (∀ bs cs : List Byte, bcc (bs ++ cs) = bcc bs ^^^ bcc cs) ∧
    ∀ bs cs : List Byte, bs.Perm cs → bcc bs = bcc cs

/-- 40_checksum.md R114: the self-inverse property. -/
def Obligations.ChecksumIsItsOwnInverse : Prop :=
  ∀ bs : List Byte, bcc (bs ++ [bcc bs]) = 0x00#8

/-- 40_checksum.md R116 (marked derived in the spec): an error pattern is undetected exactly when its own exclusive-or
is 0; an error in one byte is always detected. -/
def Obligations.ChecksumDetectsOddErrors : Prop :=
  (∀ bs es : List Byte, es.length = bs.length →
      (bcc (List.zipWith (· ^^^ ·) bs es) = bcc bs ↔ bcc es = 0x00#8)) ∧
    ∀ (bs : List Byte) (i : Nat) (e : Byte), i < bs.length → e ≠ 0x00#8 →
      bcc (bs.set i (byteAt bs i ^^^ e)) ≠ bcc bs

/-- 40_checksum.md R113 (marked derived in the spec): the last byte matches the rest exactly when the whole is 0. -/
def Obligations.BufferVerifiesExactlyWhenItsChecksumIsZero : Prop :=
  ∀ bs : List Byte, bs ≠ [] → (bufferVerifies bs = true ↔ bcc bs = 0x00#8)

/-- 40_checksum.md R110, host-started: BCCOUT takes the exclusive-or of the payload, nothing else changes but the hidden
BCCACC (log entry 14); a payload presented whole is the operand. -/
def Obligations.BccComputeWritesTheExclusiveOr : Prop :=
  ∀ s : State, s.isIdle = true →
    exec .bccCompute s =
        .next { s with
          bccAcc := (payload s).foldl (· ^^^ ·) 0x00#8, bccOut := (payload s).foldl (· ^^^ ·) 0x00#8 } ∧
      (s.p.length = s.plen.toNat → payload s = s.p)

/-- 40_checksum.md R112, host-started: BCCOUT takes the recomputed value, BCCOK the comparison with BCCIN; the
hidden BCCACC keeps the value (log entry 14). -/
def Obligations.BccVerifyComparesWithBccIn : Prop :=
  ∀ s : State, s.isIdle = true →
    exec .bccVerify s =
      .next { s with
        bccAcc := (payload s).foldl (· ^^^ ·) 0x00#8, bccOut := (payload s).foldl (· ^^^ ·) 0x00#8
        bccOk := (payload s).foldl (· ^^^ ·) 0x00#8 == s.bccIn }

/-! ### Codes without an operation, and refused starts -/

/-- 30_encoding.md R92, 93_implementation_defined.md U6: OPSEL 0 and OPSEL 7 change nothing. -/
def Obligations.NoneAndReservedChangeNothing : Prop :=
  ∀ s : State, exec .none_ s = .next s ∧ exec .reserved7 s = .next s

/-- 10_state.md R39, 42_exchange.md R156, 93_implementation_defined.md U6: a start on a block that is not idle, and an
XCHG without a frame, change nothing (that a refused action is a next state is log entry 10). -/
def Obligations.RefusedStartsChangeNothing : Prop :=
  (∀ (i : Instr) (s : State), i.port ≠ .token → s.isIdle = false → exec i s = .next s) ∧
    ∀ s : State, s.txLen = 0#11 → exec .xchg s = .next s

/-! ### ENC.REQ -/

/-- 30_encoding.md R83: the request frame byte by byte, and what else ENC.REQ writes (41_frame_codec.md R124). -/
def Obligations.EncReqWritesTheRequestFrame : Prop :=
  ∀ s : State, s.isIdle = true → s.plen.toNat ≤ 1015 →
    ∃ t : State, exec .encReq s = .next t ∧
      t.txLen.toNat = 9 + s.plen.toNat ∧
      t.txBuf.get .tx 0 = 0xF2#8 ∧
      t.txBuf.get .tx 1 = s.raddr ∧
      (t.txBuf.get .tx 2).toNat = (s.plen.toNat + 3) / 256 ∧
      (t.txBuf.get .tx 3).toNat = (s.plen.toNat + 3) % 256 ∧
      t.txBuf.get .tx 4 = 0x43#8 ∧
      t.txBuf.get .tx 5 = s.rcm ∧
      t.txBuf.get .tx 6 = s.rpm ∧
      (∀ i, i < s.plen.toNat → t.txBuf.get .tx (7 + i) = byteAt (payload s) i) ∧
      t.txBuf.get .tx (7 + s.plen.toNat) = 0x03#8 ∧
      t.txBuf.get .tx (8 + s.plen.toNat) = (t.txBuf.take .tx (8 + s.plen.toNat)).foldl (· ^^^ ·) 0x00#8 ∧
      t = { s with txBuf := t.txBuf, txLen := t.txLen, err := .none_, errInfo := 0x00#8, bccAcc := t.bccAcc }

/-- 41_frame_codec.md R126 (marked derived in the spec): length, checksum and operand dependence of an encoded frame. -/
def Obligations.EncodedFramesVerify : Prop :=
  ∀ s t : State, s.isIdle = true → s.plen.toNat ≤ 1015 → exec .encReq s = .next t →
    (be16 (byteAt (txFrame t) 2) (byteAt (txFrame t) 3)).toNat + 6 = (txFrame t).length ∧
      bufferVerifies (txFrame t) = true ∧ bcc (txFrame t) = 0x00#8 ∧
      ∀ s' t' : State, s'.isIdle = true → exec .encReq s' = .next t' →
        s'.raddr = s.raddr → s'.rcm = s.rcm → s'.rpm = s.rpm → s'.plen = s.plen → payload s' = payload s →
          txFrame t' = txFrame t

/-- 41_frame_codec.md R122: the size test, made on PLEN before any byte of P is read or of TXBUF is written. -/
def Obligations.EncReqRefusesExactlyTheTooLarge : Prop :=
  ∀ s : State, s.isIdle = true →
    ∃ t : State, exec .encReq s = .next t ∧
      (t.err = .frameTooLarge ↔ 1016 ≤ s.plen.toNat) ∧
      (s.plen.toNat ≤ 1015 → t.err = .none_ ∧ t.txLen.toNat = 9 + s.plen.toNat) ∧
      (1016 ≤ s.plen.toNat →
        t = { s with txLen := 0#11, err := .frameTooLarge, errInfo := 0x00#8, bccAcc := t.bccAcc } ∧
        ∀ bs : List Byte, exec .encReq { s with p := bs } = .next { t with p := bs })

/-! ### DEC.RSP and the frames -/

/-- 41_frame_codec.md R140: state written by DEC.RSP, by outcome, with the conditions of R130; nothing else changes. -/
def Obligations.DecRspOutcomes : Prop :=
  ∀ s : State, s.isIdle = true →
    let n := s.rxLen.toNat
    let b := fun i => s.rxBuf.get .rx i
    let len := be16 (b 2) (b 3)
    let truncatedAt := fun h : Nat => len.toNat < h ∨ n < len.toNat + 4
    let negative := b 4 = 0x45#8 ∨ b 4 = 0x4E#8
    (1024 < n → exec .decRsp s = .next { s with rkind := .none_, err := .frameTooLarge, errInfo := 0x00#8 }) ∧
    (n < 5 → exec .decRsp s = .next { s with rkind := .none_, err := .truncatedFrame, errInfo := 0x00#8 }) ∧
    (5 ≤ n → n ≤ 1024 → b 4 ≠ 0x50#8 → ¬negative →
      exec .decRsp s =
        .next { s with rkind := .none_, rlen := len, rdisc := b 4, err := .unknownResponseType, errInfo := b 4 }) ∧
    (5 ≤ n → n ≤ 1024 → b 4 = 0x50#8 → truncatedAt 6 →
      exec .decRsp s =
        .next { s with rkind := .none_, rlen := len, rdisc := b 4, err := .truncatedFrame, errInfo := 0x00#8 }) ∧
    (5 ≤ n → n ≤ 1024 → negative → truncatedAt 5 →
      exec .decRsp s =
        .next { s with rkind := .none_, rlen := len, rdisc := b 4, err := .truncatedFrame, errInfo := 0x00#8 }) ∧
    (5 ≤ n → n ≤ 1024 → b 4 = 0x50#8 → ¬truncatedAt 6 →
      exec .decRsp s =
        .next { s with
          rkind := .positive, rlen := len, rdisc := b 4, rst0 := b 7, rst1 := b 8, rst2 := b 9
          rpoff := 10#11, rplen := BitVec.ofNat 11 (len.toNat - 6), err := .none_, errInfo := 0x00#8 }) ∧
    (5 ≤ n → n ≤ 1024 → negative → ¬truncatedAt 5 →
      exec .decRsp s =
        .next { s with
          rkind := .negative, rlen := len, rdisc := b 4, re1 := b 6, re0 := b 7
          rpoff := 9#11, rplen := BitVec.ofNat 11 (len.toNat - 5), err := .deviceError, errInfo := 0x00#8 })

/-- 41_frame_codec.md R134: a positive reply whose LEN the buffer holds; `body` starts at index 5 (that running the frame
is the decoder's effect is log entry 4). -/
def Obligations.PositiveReplyIsDecoded : Prop :=
  ∀ (stx a : Byte) (len : Word16) (body : List Byte) (s : State),
    s.isIdle = true → 5 + body.length ≤ 1024 → 6 ≤ len.toNat → len.toNat ≤ body.length + 1 →
      exec (.rspPos stx a len body) s =
        .next { s with
          rkind := .positive, rlen := len, rdisc := 0x50#8
          rst0 := byteAt body 2, rst1 := byteAt body 3, rst2 := byteAt body 4
          rpoff := 10#11, rplen := BitVec.ofNat 11 (len.toNat - 6), err := .none_, errInfo := 0x00#8 }

/-- 41_frame_codec.md R135, 30_encoding.md R86: a negative reply whose LEN the buffer holds is DeviceError, with either
marker (that running the frame is the decoder's effect is log entry 4). -/
def Obligations.NegativeReplyIsDeviceError : Prop :=
  ∀ (stx a : Byte) (len : Word16) (body : List Byte) (s : State),
    s.isIdle = true → 5 + body.length ≤ 1024 → 5 ≤ len.toNat → len.toNat ≤ body.length + 1 →
      let decoded := fun marker : Byte =>
        { s with
          rkind := .negative, rlen := len, rdisc := marker, re1 := byteAt body 1, re0 := byteAt body 2
          rpoff := 9#11, rplen := BitVec.ofNat 11 (len.toNat - 5), err := .deviceError, errInfo := 0x00#8 }
      exec (.rspNeg stx a len body) s = .next (decoded 0x45#8) ∧
        exec (.rspNegAlt stx a len body) s = .next (decoded 0x4E#8)

/-- 41_frame_codec.md R142: a request frame handed to the decoder is UnknownResponseType(0x43) and leaves its LEN in
RLEN (that running the frame is the decoder's effect is log entry 4). -/
def Obligations.RequestHandedToTheDecoderIsUnknown : Prop :=
  (∀ (a : Byte) (len : Word16) (body : List Byte) (s : State), s.isIdle = true → 5 + body.length ≤ 1024 →
      exec (.req a len body) s =
        .next { s with
          rkind := .none_, rlen := len, rdisc := 0x43#8, err := .unknownResponseType, errInfo := 0x43#8 }) ∧
    ∀ (a c p : Byte) (bs : List Byte) (s : State), s.isIdle = true → bs.length ≤ 1015 →
      ∃ t : State, exec (requestInstr a c p bs) s = .next t ∧
        t.err = .unknownResponseType ∧ t.errInfo = 0x43#8 ∧ t.rdisc = 0x43#8 ∧ t.rlen.toNat = bs.length + 3

/-- 41_frame_codec.md R132, R133: replies whose LEN is below the header or beyond the buffer, and buffers that are too
large; where a reply traps instead of completing (log entry 4). -/
def Obligations.RepliesOutOfBoundsAreTruncated : Prop :=
  ∀ (stx a : Byte) (len : Word16) (body : List Byte) (s : State), s.isIdle = true →
    let truncatedWith := fun marker : Byte =>
      { s with rkind := .none_, rlen := len, rdisc := marker, err := .truncatedFrame, errInfo := 0x00#8 }
    (5 + body.length ≤ 1024 → len.toNat < 6 ∨ body.length + 1 < len.toNat →
        exec (.rspPos stx a len body) s = .next (truncatedWith 0x50#8)) ∧
      (5 + body.length ≤ 1024 → len.toNat < 5 ∨ body.length + 1 < len.toNat →
        exec (.rspNeg stx a len body) s = .next (truncatedWith 0x45#8) ∧
          exec (.rspNegAlt stx a len body) s = .next (truncatedWith 0x4E#8)) ∧
      (1024 < 5 + body.length →
        ∀ i : Instr, i = .rspPos stx a len body ∨ i = .rspNeg stx a len body ∨ i = .rspNegAlt stx a len body ∨
            i = .req a len body →
          exec i s = .next { s with rkind := .none_, err := .frameTooLarge, errInfo := 0x00#8 })

/-- 41_frame_codec.md R131, R130: DEC.RSP runs the frame it finds in RXBUF (that a frame is fetched there is the
model's choice, log entry 4). -/
def Obligations.DecRspRunsTheFrameItFinds : Prop :=
  ∀ (s : State) (i : Instr), decodeFrame (rxReply s) = .ok i → exec .decRsp s = exec i s

/-- 41_frame_codec.md R131: DEC.RSP may be run any number of times on the same buffer with the same result. -/
def Obligations.DecRspIsRepeatable : Prop :=
  ∀ s t : State, s.isIdle = true → exec .decRsp s = .next t →
    exec .decRsp t = .next t ∧ rxReply t = rxReply s ∧ t.xstate = s.xstate

/-- 20_memory.md R65, 41_frame_codec.md R137: the decoder depends on the size and on the bytes at 2, 3, 4, then 7, 8, 9
of a positive or 6, 7 of a negative reply, and on no other. -/
def Obligations.DecoderReadsOnlyItsFields : Prop :=
  ∀ (r r' : List Byte) (s : State), r.length = r'.length →
    byteAt r 2 = byteAt r' 2 → byteAt r 3 = byteAt r' 3 → byteAt r 4 = byteAt r' 4 →
    (byteAt r 4 = PMT → byteAt r 7 = byteAt r' 7 ∧ byteAt r 8 = byteAt r' 8 ∧ byteAt r 9 = byteAt r' 9) →
    (byteAt r 4 = EMT ∨ byteAt r 4 = EMT_ALT → byteAt r 6 = byteAt r' 6 ∧ byteAt r 7 = byteAt r' 7) →
      decodeResponse r s = decodeResponse r' s

/-- 41_frame_codec.md R141: after a DEC.RSP, DeviceError holds exactly when the result is negative, the only outcome
with a failure and a result together. -/
def Obligations.DeviceErrorExactlyWhenNegative : Prop :=
  ∀ s t : State, s.isIdle = true → exec .decRsp s = .next t →
    (t.err = .deviceError ↔ t.rkind = .negative) ∧
      (t.err ≠ .none_ ∧ t.rkind ≠ .none_ ↔ t.rkind = .negative)

/-- 41_frame_codec.md R138, R139, 00_scope.md R11: the four given table entries, and an absent code's empty message in
the typed result; what the tables hold beyond them is free (log entry 12). 43_session.md R195: the typed result of every
row of its table; that DeviceError is returned in any XSTATE, and that the registers of a row decide whatever operations left
them, is log entry 17. -/
def Obligations.TextTablesHoldTheGivenEntries : Prop :=
  errMsg 0x31#8 0x30#8 = "Card Jam" ∧
    stName0 0x32#8 = "One Card on RF/IC Card Position" ∧
    stName1 0x32#8 = "Enough Cards in card box" ∧
    stName2 0x30#8 = "Error card bin not full" ∧
    ∀ s : State,
      (s.err = .deviceError →
        result s = .deviceError (s.xstate == .done) s.re1 s.re0 (errMsg s.re1 s.re0) (replyPayload s) ∧
          (Config.otherMessage s.re1 s.re0 = none → ¬(s.re1 = 0x31#8 ∧ s.re0 = 0x30#8) → errMsg s.re1 s.re0 = "")) ∧
      (s.xstate = .done → s.err = .none_ → s.rkind = .positive →
        result s =
          .positive true s.rst0 s.rst1 s.rst2 [stName0 s.rst0, stName1 s.rst1, stName2 s.rst2] (replyPayload s)) ∧
      (s.xstate = .done → s.err = .unknownResponseType → result s = .unknownResponse true s.errInfo) ∧
      (s.xstate = .done → s.err = .truncatedFrame → result s = .truncatedReply true) ∧
      (s.xstate = .done → s.err = .none_ → s.rkind = .none_ → result s = .notDecoded) ∧
      (s.xstate = .failNoAck → s.err = .noAck → result s = .noAck s.errInfo s.noAckV) ∧
      (s.xstate = .failTransport → s.err = .transportError → result s = .transportFailure) ∧
      (s.xstate = .failDecode → s.txLen ≠ 0#11 →
        s.err = .frameTooLarge ∨ s.err = .truncatedFrame ∨ s.err = .checksumMismatch →
          result s = .replyRejected s.err) ∧
      (s.txLen = 0#11 → s.err = .frameTooLarge → result s = .requestRefused)

/-! ### XCHG -/

/-- 42_exchange.md R154, R171: the sequencer with its bounded storage (ACKBYTE, RXBUF, RXOVF) and its calls shows, for
every script of the transport, exactly what the pseudocode over the logical accumulation shows. -/
def Obligations.XchgRefinesTheLogicalExchange : Prop :=
  ∀ s : State, s.isIdle = true → s.txLen ≠ 0#11 →
    ∃ t : State, exec .xchg s = .next t ∧
      exchangeView s t = logicalExchange s.xstate (txFrame s) (cfgStrict s) s.wAns s.rAns

/-- 42_exchange.md R157, R170, 60_exceptions.md R211: whatever its outcome, XCHG leaves every register and TXBUF as they
were, but for those its rules name. -/
def Obligations.XchgLeavesTheRestUnchanged : Prop :=
  ∀ s t : State, exec .xchg s = .next t →
    t = { s with
      xstate := t.xstate, rxBuf := t.rxBuf, rxLen := t.rxLen, rkind := t.rkind, err := t.err, errInfo := t.errInfo
      bccErr := t.bccErr, noAckV := t.noAckV, bccAcc := t.bccAcc, ackByte := t.ackByte, ackV := t.ackV
      rxOvf := t.rxOvf, strict := t.strict, rxFill := t.rxFill, call := t.call, op := t.op
      wAns := t.wAns, rAns := t.rAns, trace := t.trace }

/-- 42_exchange.md R158 to R168: an exchange whose request is accepted, whose first accumulation is one ACK byte, whose
second is a reply that fits and verifies (or the block is lenient), and whose ACK is accepted, reaches Done. -/
def Obligations.XchgReachesDone : Prop :=
  ∀ (s : State) (w : List WAnswer) (r r' : List RAnswer) (reply : List Byte),
    s.isIdle = true → s.txLen ≠ 0#11 → s.wAns = .ok s.txLen.toNat :: .ok 1 :: w →
    gather s.rAns = (.endOfStream, [ACK], r) → gather r = (.endOfStream, reply, r') →
    reply ≠ [] → reply.length ≤ 1024 → (bufferVerifies reply = true ∨ cfgStrict s = false) →
      ∃ t : State, exec .xchg s = .next t ∧ t.xstate = .done ∧ t.err = .none_ ∧ t.errInfo = 0x00#8 ∧
        t.rkind = .none_ ∧ t.bccErr = !bufferVerifies reply ∧ t.noAckV = false ∧
        t.rxLen.toNat = reply.length ∧ rxReply t = reply ∧ t.isIdle = true ∧
        writesOf t.trace = writesOf s.trace ++ [txFrame s, [0x06#8]] ∧ t.wAns = w ∧ t.rAns = r'

/-- 42_exchange.md R162: the same with the reply coalesced with the ACK: no second accumulation is run. -/
def Obligations.CoalescedReplyReachesDone : Prop :=
  ∀ (s : State) (w : List WAnswer) (r : List RAnswer) (reply : List Byte),
    s.isIdle = true → s.txLen ≠ 0#11 → s.wAns = .ok s.txLen.toNat :: .ok 1 :: w →
    gather s.rAns = (.endOfStream, ACK :: reply, r) →
    reply ≠ [] → reply.length ≤ 1024 → (bufferVerifies reply = true ∨ cfgStrict s = false) →
      ∃ t : State, exec .xchg s = .next t ∧ t.xstate = .done ∧ t.err = .none_ ∧
        t.bccErr = !bufferVerifies reply ∧ rxReply t = reply ∧ t.isIdle = true ∧
        writesOf t.trace = writesOf s.trace ++ [txFrame s, [0x06#8]] ∧ t.wAns = w ∧ t.rAns = r

/-- 42_exchange.md R161, 60_exceptions.md R202: no byte, or a first byte other than ACK, is NoAck whatever follows. -/
def Obligations.FirstByteOtherThanAckIsNoAck : Prop :=
  ∀ (s : State) (w : List WAnswer) (bs : List Byte) (r : List RAnswer),
    s.isIdle = true → s.txLen ≠ 0#11 → s.wAns = .ok s.txLen.toNat :: w →
    gather s.rAns = (.endOfStream, bs, r) → bs.head? ≠ some ACK →
      ∃ t : State, exec .xchg s = .next t ∧ t.xstate = .failNoAck ∧ t.err = .noAck ∧
        t.errInfo = bs.headD 0x00#8 ∧ t.noAckV = !bs.isEmpty ∧ t.bccErr = false ∧ t.rkind = .none_ ∧
        t.rxLen = 0#11 ∧ t.isIdle = true ∧
        writesOf t.trace = writesOf s.trace ++ [txFrame s] ∧ t.wAns = w ∧ t.rAns = r

/-- 42_exchange.md R166, 10_state.md R30: under strict mode a reply that does not verify ends the exchange; the reply is
kept, nothing is written back. -/
def Obligations.StrictMismatchEndsTheExchange : Prop :=
  ∀ (s : State) (w : List WAnswer) (r : List RAnswer) (reply : List Byte),
    s.isIdle = true → s.txLen ≠ 0#11 → s.wAns = .ok s.txLen.toNat :: w → cfgStrict s = true →
    gather s.rAns = (.endOfStream, ACK :: reply, r) → reply ≠ [] → reply.length ≤ 1024 →
    bufferVerifies reply = false →
      ∃ t : State, exec .xchg s = .next t ∧ t.xstate = .failDecode ∧ t.err = .checksumMismatch ∧
        t.errInfo = 0x00#8 ∧ t.bccErr = true ∧ t.rkind = .none_ ∧ rxReply t = reply ∧ t.isIdle = true ∧
        writesOf t.trace = writesOf s.trace ++ [txFrame s]

/-- 42_exchange.md R158, R160, R162, R169: the four places of TransportError. After an error in an accumulation the bytes of
RXBUF are unspecified (60_exceptions.md R211); that RXBUF then lists none, so that they read as free values, is the model's
choice (log entry 6). The clause of the ACK write is for a reply that came coalesced with its ACK and verifies; a reply of
a second accumulation, and one that lenient mode lets pass, are covered by XchgRefinesTheLogicalExchange. -/
def Obligations.TransportErrorsEndTheExchange : Prop :=
  ∀ s : State, s.isIdle = true → s.txLen ≠ 0#11 →
    let failed := fun (t : State) => t.xstate = .failTransport ∧ t.err = .transportError ∧ t.errInfo = 0x00#8 ∧
      t.rkind = .none_ ∧ t.noAckV = false ∧ t.isIdle = true
    (∀ a w, s.wAns = a :: w → a ≠ .ok s.txLen.toNat →
        ∃ t : State, exec .xchg s = .next t ∧ failed t ∧ t.rxLen = 0#11 ∧ t.rAns = s.rAns) ∧
      (∀ w bs r, s.wAns = .ok s.txLen.toNat :: w → gather s.rAns = (.err, bs, r) →
        ∃ t : State, exec .xchg s = .next t ∧ failed t ∧ t.rxLen = 0#11 ∧ t.rxBuf.cells = [] ∧ t.rAns = r) ∧
      (∀ w bs r r', s.wAns = .ok s.txLen.toNat :: w → gather s.rAns = (.endOfStream, [ACK], r) →
        gather r = (.err, bs, r') →
        ∃ t : State, exec .xchg s = .next t ∧ failed t ∧ t.rxLen = 0#11 ∧ t.rxBuf.cells = [] ∧ t.rAns = r') ∧
      (∀ a w reply r, s.wAns = .ok s.txLen.toNat :: a :: w → a ≠ .ok 1 →
        gather s.rAns = (.endOfStream, ACK :: reply, r) → reply ≠ [] → reply.length ≤ 1024 →
        bufferVerifies reply = true →
        ∃ t : State, exec .xchg s = .next t ∧ failed t ∧ rxReply t = reply ∧ t.bccErr = false)

/-- 42_exchange.md R163, R164: a reply of more than 1024 bytes, and no reply at all. -/
def Obligations.OverlongAndEmptyRepliesFailDecode : Prop :=
  ∀ (s : State) (w : List WAnswer) (r r' : List RAnswer) (reply : List Byte),
    s.isIdle = true → s.txLen ≠ 0#11 → s.wAns = .ok s.txLen.toNat :: w →
    gather s.rAns = (.endOfStream, [ACK], r) → gather r = (.endOfStream, reply, r') →
    reply = [] ∨ 1024 < reply.length →
      ∃ t : State, exec .xchg s = .next t ∧ t.xstate = .failDecode ∧
        t.err = (if reply = [] then .truncatedFrame else .frameTooLarge) ∧ t.errInfo = 0x00#8 ∧ t.rxLen = 0#11 ∧
        t.rkind = .none_ ∧ t.isIdle = true ∧ writesOf t.trace = writesOf s.trace ++ [txFrame s]

/-- 42_exchange.md R152, R154, R162: chunk boundaries have no effect; two scripts with the same bytes and endings give
states that differ at most in the recorded reads and in the chunks left over: the transitions and the bytes written are the
same, in the same order. -/
def Obligations.ChunkBoundariesDoNotMatter : Prop :=
  ∀ (s t t' : State) (r r' : List RAnswer) (i : Instr), i = .xchg ∨ i = .transact → bytewise r = bytewise r' →
    exec i (leaveR r s) = .next t → exec i (leaveR r' s) = .next t' →
      { t with trace := withoutReads t.trace, rAns := bytewise t.rAns } =
        { t' with trace := withoutReads t'.trace, rAns := bytewise t'.rAns }

/-- 00_scope.md R19, 20_memory.md R70, 60_exceptions.md R220: an answer that comes late, to the call the operation is
blocked in, leads where it would have led had it stood ready from the start (that the block waits in the call is log
entry 3). -/
def Obligations.LateAnswersChangeNothing : Prop :=
  ∀ (s t : State) (i : Instr) (es : List Event), i = .xchg ∨ i = .transact → s.isIdle = true → exec i s = .next t →
    (∀ a u, t.call = .readAck ∨ t.call = .readReply → t.inbox = .rAnswer a :: es →
        exec i (leaveR (s.rAns ++ [a]) s) = .next u → step t = .next (leaveInbox es u)) ∧
      ∀ a u, t.call = .writeRequest ∨ t.call = .writeAck → t.inbox = .wAnswer a :: es →
        exec i (leaveW (s.wAns ++ [a]) s) = .next u → step t = .next (leaveInbox es u)

/-- 42_exchange.md R155, 70_reset_and_hazards.md R244: when the transport answers both writes and ends both
accumulations, the operation ends. -/
def Obligations.OperationsEndWhenTheTransportAnswers : Prop :=
  ∀ (s : State) (i : Instr), i = .xchg ∨ i = .transact → s.isIdle = true → TransportAnswers s →
    ∃ t : State, exec i s = .next t ∧ t.isIdle = true

/-- 42_exchange.md R178, 43_session.md R192: no operand of the request reaches the sequencer but through the frame. -/
def Obligations.SequencerIgnoresTheOperands : Prop :=
  ∀ (s t : State) (a c p : Byte) (n : Word16) (bs : List Byte), exec .xchg s = .next t →
    exec .xchg { s with raddr := a, rcm := c, rpm := p, plen := n, p := bs } =
      .next { t with raddr := a, rcm := c, rpm := p, plen := n, p := bs }

/-! ### Tokens -/

/-- 42_exchange.md R161, R162: ACK as the first byte when the accumulation ends moves the sequencer through AckReceived to
AwaitingReply; when it came alone and no answer stands ready, the block is left in the second accumulation (log entries 1
and 4). -/
def Obligations.AckStartsTheReplyPhase : Prop :=
  ∀ s : State, s.call = .readAck →
    (∃ (t : State) (later : List Obs), exec .ack s = .next t ∧
      t.trace = later ++ [.enter .awaitingReply, .enter .ackReceived] ++ s.trace) ∧
    (s.rxFill = 0#11 → s.rAns = [] →
      exec .ack s =
        .next { s with
          ackByte := 0x06#8, ackV := true, xstate := .awaitingReply, call := .readReply
          trace := .enter .awaitingReply :: .enter .ackReceived :: s.trace })

/-- 42_exchange.md R177, R161: NAK and EOT as the first byte are NoAck with the byte in ERRINFO; nothing is written to the
transport (log entries 4 and 6). -/
def Obligations.NakAndEotAreNoAck : Prop :=
  ∀ s : State, s.call = .readAck →
    let failed := fun b : Byte =>
      { s with
        ackByte := b, ackV := true, noAckV := true, err := .noAck, errInfo := b, xstate := .failNoAck
        call := .none_, op := .none_, rxBuf := s.rxBuf.forget, trace := .enter .failNoAck :: s.trace }
    exec .nak s = .next (failed 0x15#8) ∧ exec .eot s = .next (failed 0x04#8)

/-- 42_exchange.md R177, 60_exceptions.md R208: outside the acknowledge phase a token has no special meaning
(log entry 4). -/
def Obligations.TokensElsewhereChangeNothing : Prop :=
  ∀ s : State, s.call ≠ .readAck →
    exec .ack s = .next s ∧ exec .nak s = .next s ∧ exec .eot s = .next s

/-! ### TRANSACT -/

/-- 43_session.md R190: TRANSACT is ENC.REQ, XCHG and DEC.RSP run in order, the first failure ending it: the same state as
starting them one by one. -/
def Obligations.TransactIsEncodeExchangeDecode : Prop :=
  ∀ s t : State, s.isIdle = true → exec .transact s = .next t → t.call = .none_ →
    ∃ s₁ s₂ : State, exec .encReq s = .next s₁ ∧
      (s₁.err ≠ .none_ → t = s₁) ∧
      (s₁.err = .none_ → exec .xchg s₁ = .next s₂ ∧
        (s₂.err ≠ .none_ → t = s₂) ∧
        (s₂.err = .none_ → s₂.xstate = .done ∧ exec .decRsp s₂ = .next t))

/-- 43_session.md R190, 60_exceptions.md R207: a request that does not fit ends TRANSACT in the encoder; nothing is sent
(that BCCACC keeps its value is log entry 14). -/
def Obligations.TransactStopsAtAnOversizedRequest : Prop :=
  ∀ s : State, s.isIdle = true → 1016 ≤ s.plen.toNat →
    exec .transact s = .next { s with txLen := 0#11, err := .frameTooLarge, errInfo := 0x00#8 }

/-- 43_session.md R190, R195: a positive reply that verifies, coalesced with its ACK, is the result of TRANSACT. -/
def Obligations.TransactReturnsThePositiveReply : Prop :=
  ∀ (s : State) (w : List WAnswer) (r : List RAnswer) (stx a : Byte) (len : Word16) (body : List Byte),
    s.isIdle = true → s.plen.toNat ≤ 1015 → s.wAns = .ok (9 + s.plen.toNat) :: .ok 1 :: w →
    gather s.rAns = (.endOfStream, ACK :: encode (.rspPos stx a len body), r) →
    5 + body.length ≤ 1024 → 6 ≤ len.toNat → len.toNat ≤ body.length + 1 →
    bufferVerifies (encode (.rspPos stx a len body)) = true →
      ∃ t : State, exec .transact s = .next t ∧ t.xstate = .done ∧ t.err = .none_ ∧ t.rkind = .positive ∧
        t.rst0 = byteAt body 2 ∧ t.rst1 = byteAt body 3 ∧ t.rst2 = byteAt body 4 ∧
        replyPayload t = (body.drop 5).take (len.toNat - 6) ∧ t.isIdle = true ∧
        writesOf t.trace =
          writesOf s.trace ++ [requestFrame s.raddr s.rcm s.rpm (payload s), [0x06#8]]

/-- 43_session.md R190, 42_exchange.md R170: what TRANSACT leaves unchanged, whatever its outcome. The bytes of TXBUF beyond
the frame are unspecified after an encoding (41_frame_codec.md R124); that the model then lists none of them, so that they
read as free values, is its choice (log entry 6). -/
def Obligations.TransactLeavesTheRestUnchanged : Prop :=
  ∀ s t : State, exec .transact s = .next t →
    t.raddr = s.raddr ∧ t.rcm = s.rcm ∧ t.rpm = s.rpm ∧ t.plen = s.plen ∧ t.p = s.p ∧ t.cfg = s.cfg ∧
      t.bccIn = s.bccIn ∧ t.bccOut = s.bccOut ∧ t.bccOk = s.bccOk ∧ t.inbox = s.inbox ∧ t.hostData = s.hostData ∧
      (1016 ≤ s.plen.toNat → t.txBuf = s.txBuf ∧ t.rxBuf = s.rxBuf ∧ t.rxLen = s.rxLen ∧ t.xstate = s.xstate) ∧
      ∀ i, 9 + s.plen.toNat ≤ i → i < 1024 → findCell t.txBuf.cells i = none ∨ t.txBuf = s.txBuf

/-! ### Failure entry -/

/-- 60_exceptions.md R210, 42_exchange.md R170, R171: a failure writes ERR, ERRINFO and, in an exchange, XSTATE; the
operation has ended and nothing else of the block is written (the trace is log entry 9). -/
def Obligations.FailureEntryWritesOnlyTheFailureRegisters : Prop :=
  ∀ (f : Err) (info : Byte) (x : XState) (s : State),
    raise f info s = { s with err := f, errInfo := info } ∧
      failExchange f info x s =
        { s with
          err := f, errInfo := info, xstate := x, call := .none_, op := .none_, trace := .enter x :: s.trace }

/-! ### Invariants -/

/-- 20_memory.md R60, R67: every step keeps both buffers canonical, all indices below 1024. -/
def Obligations.StepKeepsBuffersCanonical : Prop :=
  ∀ s t : State, BuffersCanonical s → step s = .next t → BuffersCanonical t

/-- 10_state.md R41 (marked derived in the spec): every step keeps RXLEN and the fill index within the buffer. -/
def Obligations.StepKeepsReplyLengths : Prop :=
  ∀ s t : State, ReplyLengthsFit s → step s = .next t → ReplyLengthsFit t

/-- 10_state.md R41 (marked derived in the spec): every step keeps TXBUF empty or a whole request frame. -/
def Obligations.StepKeepsTheRequestFrameWhole : Prop :=
  ∀ s t : State, RequestFrameWhole s → step s = .next t → RequestFrameWhole t

/-- 10_state.md R29: every step keeps the reserved bits of CFG at 0. -/
def Obligations.StepKeepsCfgReservedBits : Prop :=
  ∀ s t : State, CfgReservedZero s → step s = .next t → CfgReservedZero t

/-- 10_state.md R24, 42_exchange.md R157 to R170: every step keeps XSTATE, the call in progress and the registers an
exchange clears in agreement. -/
def Obligations.StepKeepsTheSequencerCoherent : Prop :=
  ∀ s t : State, SequencerCoherent s → step s = .next t → SequencerCoherent t

/-- 10_state.md R24, 20_memory.md R61, R70, R71, 42_exchange.md R172: every step keeps the observed transitions and
transport calls within the protocol: one transition per rule in order, reads only in the two accumulations, one ACK
byte and only after the reply was checked. -/
def Obligations.StepKeepsTheProtocol : Prop :=
  ∀ s t : State, FollowsProtocol s → step s = .next t → FollowsProtocol t

/-- The reset state (10_state.md R40) meets the invariants. -/
def Obligations.ResetMeetsTheInvariants : Prop :=
  BuffersCanonical State.reset ∧ ReplyLengthsFit State.reset ∧ RequestFrameWhole State.reset ∧
    CfgReservedZero State.reset ∧ SequencerCoherent State.reset ∧ FollowsProtocol State.reset

/-! ### The host's side -/

/-- 10_state.md R39: while an operation runs a host write changes nothing, XSTATE is readable, and any other read returns
no defined value (a free one, log entry 8). On an idle block (10_state.md R39) a register reads as it stands, XSTATE, ERR
and RKIND as their codes (R23, R28, R32); a hidden register (R35, R36), a stale result register (R28;
93_implementation_defined.md U4) and a byte at or above its length (R40, U5) have no defined value. That a narrow register
reads with zeros above, and that an undefined read is a free value in hostData, is log entry 8. -/
def Obligations.HostAccessWhileBusyIsRefused : Prop :=
  ∀ (s : State) (es : List Event),
    let finds := fun (r : HostRead) (v : Word16) =>
      s.inbox = .read r :: es → step s = .next { leaveInbox es s with hostData := v }
    let findsNothing := fun r : HostRead =>
      s.inbox = .read r :: es →
        step s = .next { leaveInbox es s with hostData := Config.undefinedRead s.freeCtr, freeCtr := s.freeCtr + 1 }
    (s.isIdle = false →
      (∀ w, s.inbox = .write w :: es → step s = .next (leaveInbox es s)) ∧
      finds (.reg .xstate) (s.xstate.code.setWidth 16) ∧
      ∀ r, r ≠ .reg .xstate → findsNothing r) ∧
    (s.isIdle = true →
      (∀ p ∈ [(Reg.raddr, s.raddr.setWidth 16), (.rcm, s.rcm.setWidth 16), (.rpm, s.rpm.setWidth 16), (.plen, s.plen),
          (.xstate, s.xstate.code.setWidth 16), (.txLen, s.txLen.setWidth 16), (.rxLen, s.rxLen.setWidth 16),
          (.rkind, s.rkind.code.setWidth 16), (.rlen, s.rlen), (.rdisc, s.rdisc.setWidth 16), (.cfg, s.cfg.setWidth 16),
          (.err, s.err.code.setWidth 16), (.errInfo, s.errInfo.setWidth 16), (.bccIn, s.bccIn.setWidth 16),
          (.bccOut, s.bccOut.setWidth 16), (.bccErr, if s.bccErr then 1#16 else 0#16),
          (.noAckV, if s.noAckV then 1#16 else 0#16), (.bccOk, if s.bccOk then 1#16 else 0#16)],
        finds (.reg p.1) p.2) ∧
      (∀ p ∈ [(Reg.rst0, s.rst0), (.rst1, s.rst1), (.rst2, s.rst2)],
        (s.rkind = .positive → finds (.reg p.1) (p.2.setWidth 16)) ∧ (s.rkind ≠ .positive → findsNothing (.reg p.1))) ∧
      (∀ p ∈ [(Reg.re1, s.re1), (.re0, s.re0)],
        (s.rkind = .negative → finds (.reg p.1) (p.2.setWidth 16)) ∧ (s.rkind ≠ .negative → findsNothing (.reg p.1))) ∧
      (∀ p ∈ [(Reg.rpoff, s.rpoff), (.rplen, s.rplen)],
        (s.rkind ≠ .none_ → finds (.reg p.1) (p.2.setWidth 16)) ∧ (s.rkind = .none_ → findsNothing (.reg p.1))) ∧
      (∀ r ∈ [Reg.bccAcc, .ackByte, .ackV, .rxOvf], findsNothing (.reg r)) ∧
      ∀ i : Nat,
        (i < s.plen.toNat → finds (.payload i) ((byteAt (payload s) i).setWidth 16)) ∧
        (s.plen.toNat ≤ i → findsNothing (.payload i)) ∧
        (i < s.txLen.toNat → i < 1024 → finds (.txBuf i) ((s.txBuf.get .tx i).setWidth 16)) ∧
        (s.txLen.toNat ≤ i → findsNothing (.txBuf i)) ∧
        (i < s.rxLen.toNat → i < 1024 → finds (.rxBuf i) ((s.rxBuf.get .rx i).setWidth 16)) ∧
        (s.rxLen.toNat ≤ i → findsNothing (.rxBuf i))) ∧
    [XState.idle, .sent, .awaitingAck, .ackReceived, .awaitingReply, .replyReceived, .done, .failNoAck, .failTransport,
        .failDecode].map XState.code = [0#4, 1#4, 2#4, 3#4, 4#4, 5#4, 6#4, 8#4, 9#4, 10#4] ∧
    [Err.none_, .transportError, .noAck, .checksumMismatch, .unknownResponseType, .truncatedFrame, .deviceError,
        .frameTooLarge].map Err.code = [0#4, 1#4, 2#4, 3#4, 4#4, 5#4, 6#4, 7#4] ∧
    [RKind.none_, .positive, .negative].map RKind.code = [0#2, 1#2, 2#2]

/-- 10_state.md R29, R39: the host's writes on an idle block; reserved bits of CFG and read-only registers ignore them, a
too large RXLEN or payload is refused (pEpoch is log entry 7); a byte of RXBUF reads as written and no other byte changes. -/
def Obligations.HostWritesWhenIdle : Prop :=
  ∀ (s : State) (es : List Event) (w : HostWrite), s.isIdle = true → s.inbox = .write w :: es →
    (∀ v, w = .raddr v → step s = .next { leaveInbox es s with raddr := v }) ∧
    (∀ v, w = .rcm v → step s = .next { leaveInbox es s with rcm := v }) ∧
    (∀ v, w = .rpm v → step s = .next { leaveInbox es s with rpm := v }) ∧
    (∀ v, w = .plen v → step s = .next { leaveInbox es s with plen := v, pEpoch := s.pEpoch + 1 }) ∧
    (∀ bs, w = .payload bs →
      step s = .next (if bs.length < 65536 then { leaveInbox es s with p := bs, pEpoch := s.pEpoch + 1 }
        else leaveInbox es s)) ∧
    (∀ v, w = .bccIn v → step s = .next { leaveInbox es s with bccIn := v }) ∧
    (∀ v, w = .cfg v →
      step s = .next { leaveInbox es s with cfg := if v.getLsbD 0 then 0x01#8 else 0x00#8 }) ∧
    (∀ v, w = .rxLen v →
      step s = .next (if v.toNat ≤ 1024 then { leaveInbox es s with rxLen := v } else leaveInbox es s)) ∧
    (∀ r v, w = .readOnly r v → step s = .next (leaveInbox es s)) ∧
    (∀ i b, w = .txBuf i b → step s = .next (leaveInbox es s)) ∧
    (∀ i b, w = .rxBuf i b → i < 1024 →
      ∃ t, step s = .next t ∧ t = { leaveInbox es s with rxBuf := t.rxBuf } ∧ t.rxBuf.get .rx i = b ∧
        ∀ j, j ≠ i → t.rxBuf.get .rx j = s.rxBuf.get .rx j)

/-- 20_memory.md R60: what a host access at an index of 1024 or above does. A write of RXBUF on an idle block faults (the
model's choice, log entry 13); on a busy block it is refused, and a write of TXBUF always is (10_state.md R25, R39;
93_implementation_defined.md U7); a read is one above the length register and has no defined value (10_state.md R40, U5; a
free one, log entry 8). -/
def Obligations.HostIndexOutsideABufferFaults : Prop :=
  ∀ (s : State) (es : List Event) (i : Nat) (b : Byte), 1024 ≤ i →
    (s.inbox = .write (.rxBuf i b) :: es → s.isIdle = true → step s = .fault (.noSuchIndex i)) ∧
      (s.inbox = .write (.rxBuf i b) :: es → s.isIdle = false → step s = .next (leaveInbox es s)) ∧
      (s.inbox = .write (.txBuf i b) :: es → step s = .next (leaveInbox es s)) ∧
      (s.inbox = .read (.txBuf i) :: es ∨ s.inbox = .read (.rxBuf i) :: es →
        step s = .next { leaveInbox es s with
          hostData := Config.undefinedRead s.freeCtr, freeCtr := s.freeCtr + 1 })

/-- 70_reset_and_hazards.md R230, R232, 10_state.md R40: reset at any time puts the registers into the reset table and does
nothing to the transport (log entry 11; that unspecified buffers list nothing is log entry 6). -/
def Obligations.ResetPutsTheResetTable : Prop :=
  ∀ (s : State) (es : List Event), s.inbox = .reset :: es →
    ∃ t : State, step s = .next t ∧ t.isIdle = true ∧ t.xstate = .idle ∧ t.raddr = 0x00#8 ∧ t.rcm = 0x00#8 ∧
      t.rpm = 0x00#8 ∧ t.plen = 0#16 ∧ t.p = [] ∧ t.txLen = 0#11 ∧ t.rxLen = 0#11 ∧ t.rkind = .none_ ∧
      t.rlen = 0#16 ∧ t.rdisc = 0x00#8 ∧ t.rst0 = 0x00#8 ∧ t.rst1 = 0x00#8 ∧ t.rst2 = 0x00#8 ∧ t.re1 = 0x00#8 ∧
      t.re0 = 0x00#8 ∧ t.rpoff = 0#11 ∧ t.rplen = 0#11 ∧ t.cfg = 0x01#8 ∧ t.err = .none_ ∧ t.errInfo = 0x00#8 ∧
      t.bccErr = false ∧ t.noAckV = false ∧ t.bccAcc = 0x00#8 ∧ t.bccIn = 0x00#8 ∧ t.bccOut = 0x00#8 ∧
      t.bccOk = false ∧ t.ackByte = 0x00#8 ∧ t.ackV = false ∧ t.rxOvf = false ∧ t.txBuf.cells = [] ∧
      t.rxBuf.cells = [] ∧ t.wAns = s.wAns ∧ t.rAns = s.rAns ∧ t.inbox = es

/-- 70_reset_and_hazards.md R231 (marked derived in the spec): right after reset the checksum and encode operations run,
DEC.RSP raises TruncatedFrame, XCHG is refused. -/
def Obligations.OperationsRightAfterReset : Prop :=
  exec .bccCompute State.reset = .next State.reset ∧
    exec .bccVerify State.reset = .next { State.reset with bccOk := true } ∧
    (∃ t : State, exec .encReq State.reset = .next t ∧ t.err = .none_ ∧ t.txLen = 9#11) ∧
    exec .decRsp State.reset = .next { State.reset with err := .truncatedFrame } ∧
    exec .xchg State.reset = .next State.reset

/-! ### The step -/

/-- A step runs the decoded instruction: an OPSEL code from the command port (30_encoding.md R92), a frame that DEC.RSP
finds in RXBUF, a token that stands first when the acknowledge accumulation ends (where they are fetched is log entry 4). -/
def Obligations.StepRunsTheDecodedInstruction : Prop :=
  ∀ (s : State) (i : Instr),
    (∀ (c : BitVec 3) (es : List Event), s.inbox = .opsel c :: es → decode .command [c.setWidth 8] = .ok i →
        step s = exec i (leaveInbox es s)) ∧
      (∀ es : List Event, s.inbox = .opsel 4#3 :: es → decode .frame (rxReply s) = .ok i →
        step s = exec i (leaveInbox es s)) ∧
      ∀ r : List RAnswer, s.inbox = [] → s.call = .readAck → s.ackV = true → decode .token [s.ackByte] = .ok i →
        s.rAns = .endOfStream :: r → step s = exec i (observe (.read .endOfStream) (leaveR r s))

/-- 93_implementation_defined.md U10, 60_exceptions.md R220, 70_reset_and_hazards.md R230: with no event and no answer the
block waits and all state is kept (log entry 3). -/
def Obligations.WaitingKeepsAllState : Prop :=
  ∀ s : State, s.inbox = [] → s.wAns = [] → s.rAns = [] → step s = .next s
end

