-- ==== Sys2Proof/Laws/Codec.lean ====
section
/-! SUPPORT. What the frame codec can do, once: the registers ENC.REQ and DEC.RSP write and no others. -/

namespace Sys2Proof.Machine

/-- DEC.RSP writes the result registers, ERR and ERRINFO only (41_frame_codec.md R140). -/
theorem decodeResponse_frame (r : List Byte) (s : State) :
    decodeResponse r s =
      { s with
        rkind := (decodeResponse r s).rkind, rlen := (decodeResponse r s).rlen, rdisc := (decodeResponse r s).rdisc
        rst0 := (decodeResponse r s).rst0, rst1 := (decodeResponse r s).rst1, rst2 := (decodeResponse r s).rst2
        re1 := (decodeResponse r s).re1, re0 := (decodeResponse r s).re0, rpoff := (decodeResponse r s).rpoff
        rplen := (decodeResponse r s).rplen, err := (decodeResponse r s).err
        errInfo := (decodeResponse r s).errInfo } := by
  unfold decodeResponse
  split
  · rfl
  · split
    · rfl
    · unfold decodeByKind
      split
      · unfold decodePositive
        split <;> rfl
      · split
        · unfold decodeNegative
          split <;> rfl
        · rfl

/-- ENC.REQ writes TXBUF, TXLEN, ERR, ERRINFO and the hidden BCCACC only (41_frame_codec.md R124). -/
theorem encodeRequest_frame (s : State) :
    encodeRequest s =
      { s with
        txBuf := (encodeRequest s).txBuf, txLen := (encodeRequest s).txLen, err := (encodeRequest s).err
        errInfo := (encodeRequest s).errInfo, bccAcc := (encodeRequest s).bccAcc } := by
  unfold encodeRequest
  split <;> rfl

/-- ENC.REQ ends in FrameTooLarge or without a failure (41_frame_codec.md R122). -/
theorem encodeRequest_err (s : State) :
    (encodeRequest s).err = if Config.maxFrame < 9 + s.plen.toNat then .frameTooLarge else .none_ := by
  unfold encodeRequest
  split <;> rfl

end Sys2Proof.Machine
end

