-- ==== Sys2Proof/Laws/HostPort.lean ====
section
/-! SUPPORT. The host's port, once: what a read and a write can do (10_state.md R39). -/

namespace Sys2Proof.Machine

/-- A read that finds a defined value returns it and changes nothing of the block. -/
theorem hostRead_some (r : HostRead) (s : State) (v : Word16) (h : readValue r s = some v) :
    hostRead r s = { s with hostData := v } := by
  unfold hostRead
  rw [h]

/-- A read without a defined value returns a free one and changes nothing of the block. -/
theorem hostRead_none (r : HostRead) (s : State) (h : readValue r s = none) :
    hostRead r s = { s with hostData := Config.undefinedRead s.freeCtr, freeCtr := s.freeCtr + 1 } := by
  unfold hostRead
  rw [h]

/-- On a busy block only XSTATE has a value. -/
theorem readValue_busy (r : HostRead) (s : State) (hi : s.isIdle = false) :
    readValue r s = if r = .reg .xstate then some (s.xstate.code.setWidth 16) else none := by
  unfold readValue
  rw [if_neg (by simp [hi])]
  rfl

@[simp] theorem readValue_reg (r : Reg) (s : State) (hi : s.isIdle = true) : readValue (.reg r) s = regValue r s := by
  simp [readValue, hi]

/-- A byte of P below PLEN has its value, the others none (10_state.md R22). -/
@[simp] theorem readValue_payload (i : Nat) (s : State) (hi : s.isIdle = true) :
    readValue (.payload i) s =
      if i < s.plen.toNat then some ((byteAt (payload s) i).setWidth 16) else none := by
  simp [readValue, hi]

@[simp] theorem readValue_txBuf (i : Nat) (s : State) (hi : s.isIdle = true) :
    readValue (.txBuf i) s = bufferValue .tx s.txBuf s.txLen i := by
  simp [readValue, hi]

@[simp] theorem readValue_rxBuf (i : Nat) (s : State) (hi : s.isIdle = true) :
    readValue (.rxBuf i) s = bufferValue .rx s.rxBuf s.rxLen i := by
  simp [readValue, hi]

/-- A buffer byte below its length register has its value. -/
theorem bufferValue_below (sp : Config.Space) (m : Memory) (len : Len11) (i : Nat) (h : i < len.toNat)
    (hm : i < Config.maxFrame) : bufferValue sp m len i = some ((m.get sp i).setWidth 16) :=
  if_pos ⟨h, hm⟩

/-- A buffer byte at or above its length register has none. -/
theorem bufferValue_above (sp : Config.Space) (m : Memory) (len : Len11) (i : Nat) (h : len.toNat ≤ i) :
    bufferValue sp m len i = none :=
  if_neg fun hc => Nat.not_lt.2 h hc.1

/-- An index that does not exist has no value in any state. -/
theorem bufferValue_missing (sp : Config.Space) (m : Memory) (len : Len11) (i : Nat) (h : Config.maxFrame ≤ i) :
    bufferValue sp m len i = none :=
  if_neg fun hc => Nat.not_lt.2 h hc.2

/-- A step that serves a host read. -/
theorem step_read (r : HostRead) (es : List Event) (s : State) (h : s.inbox = .read r :: es) :
    step s = .next (hostRead r (leaveInbox es s)) := by
  simp [step, nextStep, h, serve]

/-- A step that serves a host write. -/
theorem step_write (w : HostWrite) (es : List Event) (s : State) (h : s.inbox = .write w :: es) :
    step s = hostWrite w (leaveInbox es s) := by
  simp [step, nextStep, h, serve]

/-- On an idle block a write that misses no buffer has its effect. -/
theorem hostWrite_idle (w : HostWrite) (s : State) (hi : s.isIdle = true) (hm : w.missing = none) :
    hostWrite w s = .next (writeIdle w s) := by
  simp [hostWrite, hi, hm]

/-- On a busy block a write is refused, whatever it names. -/
theorem hostWrite_busy (w : HostWrite) (s : State) (hi : s.isIdle = false) : hostWrite w s = .next s := by
  simp [hostWrite, hi]

/-- What a host write can do when it answers a next state. -/
theorem hostWrite_cases (w : HostWrite) (s t : State) (h : hostWrite w s = .next t) :
    (s.isIdle = true ∧ w.missing = none ∧ t = writeIdle w s) ∨ (s.isIdle = false ∧ t = s) := by
  unfold hostWrite at h
  split at h
  · split at h
    · cases h
      exact .inl ⟨‹_›, ‹_›, rfl⟩
    · cases h
  · cases h
    exact .inr ⟨by simpa using ‹¬s.isIdle = true›, rfl⟩

/-- A write that misses no buffer names an index of RXBUF that exists (20_memory.md R60). -/
theorem missing_none_rxBuf (i : Nat) (b : Byte) (h : (HostWrite.rxBuf i b).missing = none) : i < Config.maxFrame := by
  simp only [HostWrite.missing] at h
  split at h
  · assumption
  · cases h

end Sys2Proof.Machine
end

