-- ==== Sys2Proof/Laws/Wire.lean ====
section
/-! SUPPORT. The small lemmas of the big-endian pair, the exclusive-or and the frame layouts. -/

namespace Sys2Proof.Machine

theorem be16_toNat (h l : Byte) : (be16 h l).toNat = 256 * h.toNat + l.toNat := by
  have hh := h.isLt
  have hl := l.isLt
  rw [be16, BitVec.toNat_ofNat]
  exact Nat.mod_eq_of_lt (by omega)

theorem hi_toNat (v : Word16) : (hi v).toNat = v.toNat / 256 := by
  have hv := v.isLt
  rw [hi, BitVec.extractLsb'_toNat, Nat.shiftRight_eq_div_pow]
  omega

theorem lo_toNat (v : Word16) : (lo v).toNat = v.toNat % 256 := by
  rw [lo, BitVec.extractLsb'_toNat, Nat.shiftRight_zero]

/-- Splitting a 16-bit value and joining it gives it back. -/
@[simp] theorem be16_hi_lo (v : Word16) : be16 (hi v) (lo v) = v := by
  apply BitVec.eq_of_toNat_eq
  rw [be16_toNat, hi_toNat, lo_toNat]
  omega

@[simp] theorem hi_be16 (h l : Byte) : hi (be16 h l) = h := by
  have hl := l.isLt
  apply BitVec.eq_of_toNat_eq
  rw [hi_toNat, be16_toNat]
  omega

@[simp] theorem lo_be16 (h l : Byte) : lo (be16 h l) = l := by
  have hl := l.isLt
  apply BitVec.eq_of_toNat_eq
  rw [lo_toNat, be16_toNat]
  omega

@[simp] theorem xorFrom_nil (a : Byte) : xorFrom a [] = a := rfl

@[simp] theorem xorFrom_cons (a b : Byte) (bs : List Byte) : xorFrom a (b :: bs) = xorFrom (a ^^^ b) bs := rfl

theorem xorFrom_append (a : Byte) (bs cs : List Byte) : xorFrom a (bs ++ cs) = xorFrom (xorFrom a bs) cs := by
  induction bs generalizing a with
  | nil => rfl
  | cons b bs ih => simp [ih]

/-- The start value enters the exclusive-or once. -/
theorem xorFrom_start (a : Byte) (bs : List Byte) : xorFrom a bs = a ^^^ xorFrom 0x00#8 bs := by
  induction bs generalizing a with
  | nil => simp
  | cons b bs ih => rw [xorFrom_cons, xorFrom_cons, ih (a ^^^ b), ih (0x00#8 ^^^ b)]; simp [BitVec.xor_assoc]

@[simp] theorem byteAt_zero (b : Byte) (bs : List Byte) : byteAt (b :: bs) 0 = b := rfl

@[simp] theorem byteAt_succ (b : Byte) (bs : List Byte) (i : Nat) : byteAt (b :: bs) (i + 1) = byteAt bs i := by
  simp [byteAt]

theorem byteAt_append_left (as bs : List Byte) (i : Nat) (h : i < as.length) : byteAt (as ++ bs) i = byteAt as i := by
  simp [byteAt, List.getD_eq_getElem?_getD, List.getElem?_append_left h]

theorem byteAt_append_right (as bs : List Byte) (i : Nat) (h : as.length ≤ i) :
    byteAt (as ++ bs) i = byteAt bs (i - as.length) := by
  simp [byteAt, List.getD_eq_getElem?_getD, List.getElem?_append_right h]

end Sys2Proof.Machine

namespace Sys2Proof

open Machine

@[simp] theorem frameBytes_length (stx addr : Byte) (len : Word16) (m : Byte) (body : List Byte) :
    (frameBytes stx addr len m body).length = 5 + body.length := by
  simp [frameBytes]; omega

@[simp] theorem requestHead_length (addr cm pm : Byte) (payload : List Byte) :
    (requestHead addr cm pm payload).length = 8 + payload.length := by
  simp [requestHead]; omega

@[simp] theorem requestFrame_length (addr cm pm : Byte) (payload : List Byte) :
    (requestFrame addr cm pm payload).length = 9 + payload.length := by
  simp [requestFrame]; omega

/-- A frame that fits is decoded by its fields. -/
theorem decodeFrame_frameBytes (stx addr : Byte) (len : Word16) (m : Byte) (body : List Byte)
    (h : fitsFrame body = true) : decodeFrame (frameBytes stx addr len m body) = selectFrame stx addr len m body := by
  have hn : ¬Config.maxFrame < (frameBytes stx addr len m body).length := by
    rw [frameBytes_length]
    exact Nat.not_lt.2 (of_decide_eq_true h)
  unfold decodeFrame
  rw [if_neg hn]
  change selectFrame stx addr (be16 (hi len) (lo len)) m body = _
  rw [be16_hi_lo]

end Sys2Proof
end

