-- ==== Sys2Proof/Laws/Memory.lean ====
section
/-! SUPPORT. The laws of the two frame buffers: reading after writing, and that every operation keeps the canonical
form. -/

namespace Sys2Proof.Machine

/-! ### Reading after writing -/

theorem findCell_putCell_same (cs : List Host.Cell) (i : Nat) (v : Byte) : findCell (putCell cs i v) i = some v := by
  induction cs with
  | nil => simp [putCell, findCell]
  | cons c cs ih =>
    obtain ⟨a, b⟩ := c
    simp only [putCell]
    split
    · simp [findCell]
    · split
      · simp [findCell]
      · rename_i h1 h2
        have : a ≠ i := fun h => h2 h.symm
        simp [findCell, this, ih]

theorem findCell_putCell_other (cs : List Host.Cell) (i j : Nat) (v : Byte) (h : j ≠ i) :
    findCell (putCell cs i v) j = findCell cs j := by
  have h' : i ≠ j := fun e => h e.symm
  induction cs with
  | nil => simp [putCell, findCell, h']
  | cons c cs ih =>
    obtain ⟨a, b⟩ := c
    simp only [putCell]
    split
    · simp [findCell, h']
    · split
      · rename_i h1 h2
        subst h2
        simp [findCell, h']
      · simp [findCell, ih]

@[simp] theorem Memory.get_put_same (sp : Config.Space) (m : Memory) (i : Nat) (v : Byte) :
    (m.put i v).get sp i = v := by
  simp [Memory.get, Memory.put, findCell_putCell_same]

theorem Memory.get_put_other (sp : Config.Space) (m : Memory) (i j : Nat) (v : Byte) (h : j ≠ i) :
    (m.put i v).get sp j = m.get sp j := by
  simp [Memory.get, Memory.put, findCell_putCell_other _ _ _ _ h]

theorem findCell_cellsFrom (k : Nat) (bs : List Byte) (i : Nat) (h : i < bs.length) :
    findCell (cellsFrom k bs) (k + i) = some (byteAt bs i) := by
  induction bs generalizing k i with
  | nil => simp at h
  | cons b bs ih =>
    cases i with
    | zero => simp [cellsFrom, findCell]
    | succ i =>
      have hk : k ≠ k + (i + 1) := by omega
      have := ih (k + 1) i (by simpa using h)
      rw [show k + 1 + i = k + (i + 1) by omega] at this
      simp [cellsFrom, findCell, this]

/-- A buffer that holds a byte sequence reads as that sequence. -/
theorem Memory.get_holding (sp : Config.Space) (m : Memory) (bs : List Byte) (i : Nat) (h : i < bs.length) :
    (m.holding bs).get sp i = byteAt bs i := by
  have := findCell_cellsFrom 0 bs i h
  rw [Nat.zero_add] at this
  simp [Memory.get, Memory.holding, this]

@[simp] theorem Memory.take_length (sp : Config.Space) (m : Memory) (n : Nat) : (m.take sp n).length = n := by
  simp [Memory.take]

theorem Memory.byteAt_take (sp : Config.Space) (m : Memory) (n i : Nat) (h : i < n) :
    byteAt (m.take sp n) i = m.get sp i := by
  simp [byteAt, Memory.take, List.getD_eq_getElem?_getD, h]

/-- Reading more bytes only appends. -/
theorem Memory.take_succ (sp : Config.Space) (m : Memory) (n : Nat) :
    m.take sp (n + 1) = m.take sp n ++ [m.get sp n] := by
  simp [Memory.take, List.range_succ]

theorem Memory.take_put (sp : Config.Space) (m : Memory) (n i : Nat) (v : Byte) (h : n ≤ i) :
    (m.put i v).take sp n = m.take sp n := by
  simp only [Memory.take]
  refine List.map_congr_left fun j hj => Memory.get_put_other sp m i j v ?_
  have := List.mem_range.mp hj
  omega

/-- A buffer that holds a byte sequence, read over its length, is that sequence. -/
theorem Memory.take_holding (sp : Config.Space) (m : Memory) (bs : List Byte) :
    (m.holding bs).take sp bs.length = bs := by
  refine List.ext_getElem (by simp) fun i h1 h2 => ?_
  have := Memory.get_holding sp m bs i h2
  simp [Memory.take, this, byteAt, h2]

/-! ### The canonical form -/

theorem cellsRise_weaken (k l : Nat) (cs : List Host.Cell) (h : k ≤ l) (hc : cellsRise l cs = true) :
    cellsRise k cs = true := by
  cases cs with
  | nil => rfl
  | cons c cs => simp only [cellsRise, Bool.and_eq_true, decide_eq_true_eq] at *; exact ⟨⟨by omega, hc.1.2⟩, hc.2⟩

theorem cellsRise_putCell (k : Nat) (cs : List Host.Cell) (i : Nat) (v : Byte) (hk : k ≤ i)
    (hi : i < Config.maxFrame) (h : cellsRise k cs = true) : cellsRise k (putCell cs i v) = true := by
  induction cs generalizing k with
  | nil => simp [putCell, cellsRise, hk, hi]
  | cons c cs ih =>
    obtain ⟨a, b⟩ := c
    simp only [cellsRise, Bool.and_eq_true, decide_eq_true_eq] at h
    simp only [putCell]
    split
    · simp only [cellsRise, Bool.and_eq_true, decide_eq_true_eq]
      exact ⟨⟨hk, hi⟩, ⟨by omega, h.1.2⟩, h.2⟩
    · split
      · rename_i h1 h2
        subst h2
        simp only [cellsRise, Bool.and_eq_true, decide_eq_true_eq]
        exact ⟨⟨hk, hi⟩, h.2⟩
      · simp only [cellsRise, Bool.and_eq_true, decide_eq_true_eq]
        exact ⟨h.1, ih (a + 1) (by omega) h.2⟩

theorem cellsRise_cellsFrom (k : Nat) (bs : List Byte) (h : k + bs.length ≤ Config.maxFrame) :
    cellsRise k (cellsFrom k bs) = true := by
  induction bs generalizing k with
  | nil => rfl
  | cons b bs ih =>
    simp only [List.length_cons] at h
    simp only [cellsFrom, cellsRise, Bool.and_eq_true, decide_eq_true_eq]
    exact ⟨⟨le_refl k, by omega⟩, ih (k + 1) (by omega)⟩

theorem Memory.wf_put (m : Memory) (i : Nat) (v : Byte) (hi : i < Config.maxFrame) (h : m.wf = true) :
    (m.put i v).wf = true :=
  cellsRise_putCell 0 m.cells i v (Nat.zero_le i) hi h

@[simp] theorem Memory.wf_forget (m : Memory) : m.forget.wf = true := rfl

theorem Memory.wf_holding (m : Memory) (bs : List Byte) (h : bs.length ≤ Config.maxFrame) :
    (m.holding bs).wf = true :=
  cellsRise_cellsFrom 0 bs (by omega)

theorem reset_buffers_wf : State.reset.txBuf.wf = true ∧ State.reset.rxBuf.wf = true := ⟨rfl, rfl⟩

/-! ### The operands -/

@[simp] theorem presentedFrom_length (e n i : Nat) (bs : List Byte) : (presentedFrom e n i bs).length = n := by
  induction n generalizing i bs with
  | zero => rfl
  | succ n ih => cases bs <;> simp [presentedFrom, ih]

/-- A payload presented whole is read as it is. -/
theorem presentedFrom_whole (e i : Nat) (bs : List Byte) : presentedFrom e bs.length i bs = bs := by
  induction bs generalizing i with
  | nil => rfl
  | cons b bs ih => simp [presentedFrom, ih]

@[simp] theorem payload_length (s : State) : (payload s).length = s.plen.toNat := by simp [payload]

@[simp] theorem txFrame_length (s : State) : (txFrame s).length = s.txLen.toNat := by simp [txFrame]

@[simp] theorem rxReply_length (s : State) : (rxReply s).length = s.rxLen.toNat := by simp [rxReply]

end Sys2Proof.Machine
end

