-- ==== Sys2Proof/Laws/State.lean ====
section
/-! SUPPORT. One lemma per field per update of the shared operations, each true by unfolding the update once. -/

namespace Sys2Proof.Machine

section
variable (o : Obs) (s : State)

@[simp] theorem observe_raddr : (observe o s).raddr = s.raddr := rfl
@[simp] theorem observe_rcm : (observe o s).rcm = s.rcm := rfl
@[simp] theorem observe_rpm : (observe o s).rpm = s.rpm := rfl
@[simp] theorem observe_plen : (observe o s).plen = s.plen := rfl
@[simp] theorem observe_p : (observe o s).p = s.p := rfl
@[simp] theorem observe_xstate : (observe o s).xstate = s.xstate := rfl
@[simp] theorem observe_txBuf : (observe o s).txBuf = s.txBuf := rfl
@[simp] theorem observe_txLen : (observe o s).txLen = s.txLen := rfl
@[simp] theorem observe_rxBuf : (observe o s).rxBuf = s.rxBuf := rfl
@[simp] theorem observe_rxLen : (observe o s).rxLen = s.rxLen := rfl
@[simp] theorem observe_rkind : (observe o s).rkind = s.rkind := rfl
@[simp] theorem observe_rlen : (observe o s).rlen = s.rlen := rfl
@[simp] theorem observe_rdisc : (observe o s).rdisc = s.rdisc := rfl
@[simp] theorem observe_rst0 : (observe o s).rst0 = s.rst0 := rfl
@[simp] theorem observe_rst1 : (observe o s).rst1 = s.rst1 := rfl
@[simp] theorem observe_rst2 : (observe o s).rst2 = s.rst2 := rfl
@[simp] theorem observe_re1 : (observe o s).re1 = s.re1 := rfl
@[simp] theorem observe_re0 : (observe o s).re0 = s.re0 := rfl
@[simp] theorem observe_rpoff : (observe o s).rpoff = s.rpoff := rfl
@[simp] theorem observe_rplen : (observe o s).rplen = s.rplen := rfl
@[simp] theorem observe_cfg : (observe o s).cfg = s.cfg := rfl
@[simp] theorem observe_err : (observe o s).err = s.err := rfl
@[simp] theorem observe_errInfo : (observe o s).errInfo = s.errInfo := rfl
@[simp] theorem observe_bccErr : (observe o s).bccErr = s.bccErr := rfl
@[simp] theorem observe_noAckV : (observe o s).noAckV = s.noAckV := rfl
@[simp] theorem observe_bccAcc : (observe o s).bccAcc = s.bccAcc := rfl
@[simp] theorem observe_bccIn : (observe o s).bccIn = s.bccIn := rfl
@[simp] theorem observe_bccOut : (observe o s).bccOut = s.bccOut := rfl
@[simp] theorem observe_bccOk : (observe o s).bccOk = s.bccOk := rfl
@[simp] theorem observe_ackByte : (observe o s).ackByte = s.ackByte := rfl
@[simp] theorem observe_ackV : (observe o s).ackV = s.ackV := rfl
@[simp] theorem observe_rxOvf : (observe o s).rxOvf = s.rxOvf := rfl
@[simp] theorem observe_strict : (observe o s).strict = s.strict := rfl
@[simp] theorem observe_rxFill : (observe o s).rxFill = s.rxFill := rfl
@[simp] theorem observe_call : (observe o s).call = s.call := rfl
@[simp] theorem observe_op : (observe o s).op = s.op := rfl
@[simp] theorem observe_inbox : (observe o s).inbox = s.inbox := rfl
@[simp] theorem observe_wAns : (observe o s).wAns = s.wAns := rfl
@[simp] theorem observe_rAns : (observe o s).rAns = s.rAns := rfl
@[simp] theorem observe_pEpoch : (observe o s).pEpoch = s.pEpoch := rfl
@[simp] theorem observe_freeCtr : (observe o s).freeCtr = s.freeCtr := rfl
@[simp] theorem observe_hostData : (observe o s).hostData = s.hostData := rfl
@[simp] theorem observe_trace : (observe o s).trace = o :: s.trace := rfl

end

section
variable (c : Call) (s : State)

@[simp] theorem setCall_raddr : (setCall c s).raddr = s.raddr := rfl
@[simp] theorem setCall_rcm : (setCall c s).rcm = s.rcm := rfl
@[simp] theorem setCall_rpm : (setCall c s).rpm = s.rpm := rfl
@[simp] theorem setCall_plen : (setCall c s).plen = s.plen := rfl
@[simp] theorem setCall_p : (setCall c s).p = s.p := rfl
@[simp] theorem setCall_xstate : (setCall c s).xstate = s.xstate := rfl
@[simp] theorem setCall_txBuf : (setCall c s).txBuf = s.txBuf := rfl
@[simp] theorem setCall_txLen : (setCall c s).txLen = s.txLen := rfl
@[simp] theorem setCall_rxBuf : (setCall c s).rxBuf = s.rxBuf := rfl
@[simp] theorem setCall_rxLen : (setCall c s).rxLen = s.rxLen := rfl
@[simp] theorem setCall_rkind : (setCall c s).rkind = s.rkind := rfl
@[simp] theorem setCall_rlen : (setCall c s).rlen = s.rlen := rfl
@[simp] theorem setCall_rdisc : (setCall c s).rdisc = s.rdisc := rfl
@[simp] theorem setCall_rst0 : (setCall c s).rst0 = s.rst0 := rfl
@[simp] theorem setCall_rst1 : (setCall c s).rst1 = s.rst1 := rfl
@[simp] theorem setCall_rst2 : (setCall c s).rst2 = s.rst2 := rfl
@[simp] theorem setCall_re1 : (setCall c s).re1 = s.re1 := rfl
@[simp] theorem setCall_re0 : (setCall c s).re0 = s.re0 := rfl
@[simp] theorem setCall_rpoff : (setCall c s).rpoff = s.rpoff := rfl
@[simp] theorem setCall_rplen : (setCall c s).rplen = s.rplen := rfl
@[simp] theorem setCall_cfg : (setCall c s).cfg = s.cfg := rfl
@[simp] theorem setCall_err : (setCall c s).err = s.err := rfl
@[simp] theorem setCall_errInfo : (setCall c s).errInfo = s.errInfo := rfl
@[simp] theorem setCall_bccErr : (setCall c s).bccErr = s.bccErr := rfl
@[simp] theorem setCall_noAckV : (setCall c s).noAckV = s.noAckV := rfl
@[simp] theorem setCall_bccAcc : (setCall c s).bccAcc = s.bccAcc := rfl
@[simp] theorem setCall_bccIn : (setCall c s).bccIn = s.bccIn := rfl
@[simp] theorem setCall_bccOut : (setCall c s).bccOut = s.bccOut := rfl
@[simp] theorem setCall_bccOk : (setCall c s).bccOk = s.bccOk := rfl
@[simp] theorem setCall_ackByte : (setCall c s).ackByte = s.ackByte := rfl
@[simp] theorem setCall_ackV : (setCall c s).ackV = s.ackV := rfl
@[simp] theorem setCall_rxOvf : (setCall c s).rxOvf = s.rxOvf := rfl
@[simp] theorem setCall_strict : (setCall c s).strict = s.strict := rfl
@[simp] theorem setCall_rxFill : (setCall c s).rxFill = s.rxFill := rfl
@[simp] theorem setCall_call : (setCall c s).call = c := rfl
@[simp] theorem setCall_op : (setCall c s).op = s.op := rfl
@[simp] theorem setCall_inbox : (setCall c s).inbox = s.inbox := rfl
@[simp] theorem setCall_wAns : (setCall c s).wAns = s.wAns := rfl
@[simp] theorem setCall_rAns : (setCall c s).rAns = s.rAns := rfl
@[simp] theorem setCall_pEpoch : (setCall c s).pEpoch = s.pEpoch := rfl
@[simp] theorem setCall_freeCtr : (setCall c s).freeCtr = s.freeCtr := rfl
@[simp] theorem setCall_hostData : (setCall c s).hostData = s.hostData := rfl
@[simp] theorem setCall_trace : (setCall c s).trace = s.trace := rfl

end

section
variable (as : List WAnswer) (s : State)

@[simp] theorem leaveW_raddr : (leaveW as s).raddr = s.raddr := rfl
@[simp] theorem leaveW_rcm : (leaveW as s).rcm = s.rcm := rfl
@[simp] theorem leaveW_rpm : (leaveW as s).rpm = s.rpm := rfl
@[simp] theorem leaveW_plen : (leaveW as s).plen = s.plen := rfl
@[simp] theorem leaveW_p : (leaveW as s).p = s.p := rfl
@[simp] theorem leaveW_xstate : (leaveW as s).xstate = s.xstate := rfl
@[simp] theorem leaveW_txBuf : (leaveW as s).txBuf = s.txBuf := rfl
@[simp] theorem leaveW_txLen : (leaveW as s).txLen = s.txLen := rfl
@[simp] theorem leaveW_rxBuf : (leaveW as s).rxBuf = s.rxBuf := rfl
@[simp] theorem leaveW_rxLen : (leaveW as s).rxLen = s.rxLen := rfl
@[simp] theorem leaveW_rkind : (leaveW as s).rkind = s.rkind := rfl
@[simp] theorem leaveW_rlen : (leaveW as s).rlen = s.rlen := rfl
@[simp] theorem leaveW_rdisc : (leaveW as s).rdisc = s.rdisc := rfl
@[simp] theorem leaveW_rst0 : (leaveW as s).rst0 = s.rst0 := rfl
@[simp] theorem leaveW_rst1 : (leaveW as s).rst1 = s.rst1 := rfl
@[simp] theorem leaveW_rst2 : (leaveW as s).rst2 = s.rst2 := rfl
@[simp] theorem leaveW_re1 : (leaveW as s).re1 = s.re1 := rfl
@[simp] theorem leaveW_re0 : (leaveW as s).re0 = s.re0 := rfl
@[simp] theorem leaveW_rpoff : (leaveW as s).rpoff = s.rpoff := rfl
@[simp] theorem leaveW_rplen : (leaveW as s).rplen = s.rplen := rfl
@[simp] theorem leaveW_cfg : (leaveW as s).cfg = s.cfg := rfl
@[simp] theorem leaveW_err : (leaveW as s).err = s.err := rfl
@[simp] theorem leaveW_errInfo : (leaveW as s).errInfo = s.errInfo := rfl
@[simp] theorem leaveW_bccErr : (leaveW as s).bccErr = s.bccErr := rfl
@[simp] theorem leaveW_noAckV : (leaveW as s).noAckV = s.noAckV := rfl
@[simp] theorem leaveW_bccAcc : (leaveW as s).bccAcc = s.bccAcc := rfl
@[simp] theorem leaveW_bccIn : (leaveW as s).bccIn = s.bccIn := rfl
@[simp] theorem leaveW_bccOut : (leaveW as s).bccOut = s.bccOut := rfl
@[simp] theorem leaveW_bccOk : (leaveW as s).bccOk = s.bccOk := rfl
@[simp] theorem leaveW_ackByte : (leaveW as s).ackByte = s.ackByte := rfl
@[simp] theorem leaveW_ackV : (leaveW as s).ackV = s.ackV := rfl
@[simp] theorem leaveW_rxOvf : (leaveW as s).rxOvf = s.rxOvf := rfl
@[simp] theorem leaveW_strict : (leaveW as s).strict = s.strict := rfl
@[simp] theorem leaveW_rxFill : (leaveW as s).rxFill = s.rxFill := rfl
@[simp] theorem leaveW_call : (leaveW as s).call = s.call := rfl
@[simp] theorem leaveW_op : (leaveW as s).op = s.op := rfl
@[simp] theorem leaveW_inbox : (leaveW as s).inbox = s.inbox := rfl
@[simp] theorem leaveW_wAns : (leaveW as s).wAns = as := rfl
@[simp] theorem leaveW_rAns : (leaveW as s).rAns = s.rAns := rfl
@[simp] theorem leaveW_pEpoch : (leaveW as s).pEpoch = s.pEpoch := rfl
@[simp] theorem leaveW_freeCtr : (leaveW as s).freeCtr = s.freeCtr := rfl
@[simp] theorem leaveW_hostData : (leaveW as s).hostData = s.hostData := rfl
@[simp] theorem leaveW_trace : (leaveW as s).trace = s.trace := rfl

end

section
variable (as : List RAnswer) (s : State)

@[simp] theorem leaveR_raddr : (leaveR as s).raddr = s.raddr := rfl
@[simp] theorem leaveR_rcm : (leaveR as s).rcm = s.rcm := rfl
@[simp] theorem leaveR_rpm : (leaveR as s).rpm = s.rpm := rfl
@[simp] theorem leaveR_plen : (leaveR as s).plen = s.plen := rfl
@[simp] theorem leaveR_p : (leaveR as s).p = s.p := rfl
@[simp] theorem leaveR_xstate : (leaveR as s).xstate = s.xstate := rfl
@[simp] theorem leaveR_txBuf : (leaveR as s).txBuf = s.txBuf := rfl
@[simp] theorem leaveR_txLen : (leaveR as s).txLen = s.txLen := rfl
@[simp] theorem leaveR_rxBuf : (leaveR as s).rxBuf = s.rxBuf := rfl
@[simp] theorem leaveR_rxLen : (leaveR as s).rxLen = s.rxLen := rfl
@[simp] theorem leaveR_rkind : (leaveR as s).rkind = s.rkind := rfl
@[simp] theorem leaveR_rlen : (leaveR as s).rlen = s.rlen := rfl
@[simp] theorem leaveR_rdisc : (leaveR as s).rdisc = s.rdisc := rfl
@[simp] theorem leaveR_rst0 : (leaveR as s).rst0 = s.rst0 := rfl
@[simp] theorem leaveR_rst1 : (leaveR as s).rst1 = s.rst1 := rfl
@[simp] theorem leaveR_rst2 : (leaveR as s).rst2 = s.rst2 := rfl
@[simp] theorem leaveR_re1 : (leaveR as s).re1 = s.re1 := rfl
@[simp] theorem leaveR_re0 : (leaveR as s).re0 = s.re0 := rfl
@[simp] theorem leaveR_rpoff : (leaveR as s).rpoff = s.rpoff := rfl
@[simp] theorem leaveR_rplen : (leaveR as s).rplen = s.rplen := rfl
@[simp] theorem leaveR_cfg : (leaveR as s).cfg = s.cfg := rfl
@[simp] theorem leaveR_err : (leaveR as s).err = s.err := rfl
@[simp] theorem leaveR_errInfo : (leaveR as s).errInfo = s.errInfo := rfl
@[simp] theorem leaveR_bccErr : (leaveR as s).bccErr = s.bccErr := rfl
@[simp] theorem leaveR_noAckV : (leaveR as s).noAckV = s.noAckV := rfl
@[simp] theorem leaveR_bccAcc : (leaveR as s).bccAcc = s.bccAcc := rfl
@[simp] theorem leaveR_bccIn : (leaveR as s).bccIn = s.bccIn := rfl
@[simp] theorem leaveR_bccOut : (leaveR as s).bccOut = s.bccOut := rfl
@[simp] theorem leaveR_bccOk : (leaveR as s).bccOk = s.bccOk := rfl
@[simp] theorem leaveR_ackByte : (leaveR as s).ackByte = s.ackByte := rfl
@[simp] theorem leaveR_ackV : (leaveR as s).ackV = s.ackV := rfl
@[simp] theorem leaveR_rxOvf : (leaveR as s).rxOvf = s.rxOvf := rfl
@[simp] theorem leaveR_strict : (leaveR as s).strict = s.strict := rfl
@[simp] theorem leaveR_rxFill : (leaveR as s).rxFill = s.rxFill := rfl
@[simp] theorem leaveR_call : (leaveR as s).call = s.call := rfl
@[simp] theorem leaveR_op : (leaveR as s).op = s.op := rfl
@[simp] theorem leaveR_inbox : (leaveR as s).inbox = s.inbox := rfl
@[simp] theorem leaveR_wAns : (leaveR as s).wAns = s.wAns := rfl
@[simp] theorem leaveR_rAns : (leaveR as s).rAns = as := rfl
@[simp] theorem leaveR_pEpoch : (leaveR as s).pEpoch = s.pEpoch := rfl
@[simp] theorem leaveR_freeCtr : (leaveR as s).freeCtr = s.freeCtr := rfl
@[simp] theorem leaveR_hostData : (leaveR as s).hostData = s.hostData := rfl
@[simp] theorem leaveR_trace : (leaveR as s).trace = s.trace := rfl

end

section
variable (es : List Event) (s : State)

@[simp] theorem leaveInbox_raddr : (leaveInbox es s).raddr = s.raddr := rfl
@[simp] theorem leaveInbox_rcm : (leaveInbox es s).rcm = s.rcm := rfl
@[simp] theorem leaveInbox_rpm : (leaveInbox es s).rpm = s.rpm := rfl
@[simp] theorem leaveInbox_plen : (leaveInbox es s).plen = s.plen := rfl
@[simp] theorem leaveInbox_p : (leaveInbox es s).p = s.p := rfl
@[simp] theorem leaveInbox_xstate : (leaveInbox es s).xstate = s.xstate := rfl
@[simp] theorem leaveInbox_txBuf : (leaveInbox es s).txBuf = s.txBuf := rfl
@[simp] theorem leaveInbox_txLen : (leaveInbox es s).txLen = s.txLen := rfl
@[simp] theorem leaveInbox_rxBuf : (leaveInbox es s).rxBuf = s.rxBuf := rfl
@[simp] theorem leaveInbox_rxLen : (leaveInbox es s).rxLen = s.rxLen := rfl
@[simp] theorem leaveInbox_rkind : (leaveInbox es s).rkind = s.rkind := rfl
@[simp] theorem leaveInbox_rlen : (leaveInbox es s).rlen = s.rlen := rfl
@[simp] theorem leaveInbox_rdisc : (leaveInbox es s).rdisc = s.rdisc := rfl
@[simp] theorem leaveInbox_rst0 : (leaveInbox es s).rst0 = s.rst0 := rfl
@[simp] theorem leaveInbox_rst1 : (leaveInbox es s).rst1 = s.rst1 := rfl
@[simp] theorem leaveInbox_rst2 : (leaveInbox es s).rst2 = s.rst2 := rfl
@[simp] theorem leaveInbox_re1 : (leaveInbox es s).re1 = s.re1 := rfl
@[simp] theorem leaveInbox_re0 : (leaveInbox es s).re0 = s.re0 := rfl
@[simp] theorem leaveInbox_rpoff : (leaveInbox es s).rpoff = s.rpoff := rfl
@[simp] theorem leaveInbox_rplen : (leaveInbox es s).rplen = s.rplen := rfl
@[simp] theorem leaveInbox_cfg : (leaveInbox es s).cfg = s.cfg := rfl
@[simp] theorem leaveInbox_err : (leaveInbox es s).err = s.err := rfl
@[simp] theorem leaveInbox_errInfo : (leaveInbox es s).errInfo = s.errInfo := rfl
@[simp] theorem leaveInbox_bccErr : (leaveInbox es s).bccErr = s.bccErr := rfl
@[simp] theorem leaveInbox_noAckV : (leaveInbox es s).noAckV = s.noAckV := rfl
@[simp] theorem leaveInbox_bccAcc : (leaveInbox es s).bccAcc = s.bccAcc := rfl
@[simp] theorem leaveInbox_bccIn : (leaveInbox es s).bccIn = s.bccIn := rfl
@[simp] theorem leaveInbox_bccOut : (leaveInbox es s).bccOut = s.bccOut := rfl
@[simp] theorem leaveInbox_bccOk : (leaveInbox es s).bccOk = s.bccOk := rfl
@[simp] theorem leaveInbox_ackByte : (leaveInbox es s).ackByte = s.ackByte := rfl
@[simp] theorem leaveInbox_ackV : (leaveInbox es s).ackV = s.ackV := rfl
@[simp] theorem leaveInbox_rxOvf : (leaveInbox es s).rxOvf = s.rxOvf := rfl
@[simp] theorem leaveInbox_strict : (leaveInbox es s).strict = s.strict := rfl
@[simp] theorem leaveInbox_rxFill : (leaveInbox es s).rxFill = s.rxFill := rfl
@[simp] theorem leaveInbox_call : (leaveInbox es s).call = s.call := rfl
@[simp] theorem leaveInbox_op : (leaveInbox es s).op = s.op := rfl
@[simp] theorem leaveInbox_inbox : (leaveInbox es s).inbox = es := rfl
@[simp] theorem leaveInbox_wAns : (leaveInbox es s).wAns = s.wAns := rfl
@[simp] theorem leaveInbox_rAns : (leaveInbox es s).rAns = s.rAns := rfl
@[simp] theorem leaveInbox_pEpoch : (leaveInbox es s).pEpoch = s.pEpoch := rfl
@[simp] theorem leaveInbox_freeCtr : (leaveInbox es s).freeCtr = s.freeCtr := rfl
@[simp] theorem leaveInbox_hostData : (leaveInbox es s).hostData = s.hostData := rfl
@[simp] theorem leaveInbox_trace : (leaveInbox es s).trace = s.trace := rfl

end

section
variable (b : Byte) (s : State)

@[simp] theorem setBccAcc_raddr : (setBccAcc b s).raddr = s.raddr := rfl
@[simp] theorem setBccAcc_rcm : (setBccAcc b s).rcm = s.rcm := rfl
@[simp] theorem setBccAcc_rpm : (setBccAcc b s).rpm = s.rpm := rfl
@[simp] theorem setBccAcc_plen : (setBccAcc b s).plen = s.plen := rfl
@[simp] theorem setBccAcc_p : (setBccAcc b s).p = s.p := rfl
@[simp] theorem setBccAcc_xstate : (setBccAcc b s).xstate = s.xstate := rfl
@[simp] theorem setBccAcc_txBuf : (setBccAcc b s).txBuf = s.txBuf := rfl
@[simp] theorem setBccAcc_txLen : (setBccAcc b s).txLen = s.txLen := rfl
@[simp] theorem setBccAcc_rxBuf : (setBccAcc b s).rxBuf = s.rxBuf := rfl
@[simp] theorem setBccAcc_rxLen : (setBccAcc b s).rxLen = s.rxLen := rfl
@[simp] theorem setBccAcc_rkind : (setBccAcc b s).rkind = s.rkind := rfl
@[simp] theorem setBccAcc_rlen : (setBccAcc b s).rlen = s.rlen := rfl
@[simp] theorem setBccAcc_rdisc : (setBccAcc b s).rdisc = s.rdisc := rfl
@[simp] theorem setBccAcc_rst0 : (setBccAcc b s).rst0 = s.rst0 := rfl
@[simp] theorem setBccAcc_rst1 : (setBccAcc b s).rst1 = s.rst1 := rfl
@[simp] theorem setBccAcc_rst2 : (setBccAcc b s).rst2 = s.rst2 := rfl
@[simp] theorem setBccAcc_re1 : (setBccAcc b s).re1 = s.re1 := rfl
@[simp] theorem setBccAcc_re0 : (setBccAcc b s).re0 = s.re0 := rfl
@[simp] theorem setBccAcc_rpoff : (setBccAcc b s).rpoff = s.rpoff := rfl
@[simp] theorem setBccAcc_rplen : (setBccAcc b s).rplen = s.rplen := rfl
@[simp] theorem setBccAcc_cfg : (setBccAcc b s).cfg = s.cfg := rfl
@[simp] theorem setBccAcc_err : (setBccAcc b s).err = s.err := rfl
@[simp] theorem setBccAcc_errInfo : (setBccAcc b s).errInfo = s.errInfo := rfl
@[simp] theorem setBccAcc_bccErr : (setBccAcc b s).bccErr = s.bccErr := rfl
@[simp] theorem setBccAcc_noAckV : (setBccAcc b s).noAckV = s.noAckV := rfl
@[simp] theorem setBccAcc_bccAcc : (setBccAcc b s).bccAcc = b := rfl
@[simp] theorem setBccAcc_bccIn : (setBccAcc b s).bccIn = s.bccIn := rfl
@[simp] theorem setBccAcc_bccOut : (setBccAcc b s).bccOut = s.bccOut := rfl
@[simp] theorem setBccAcc_bccOk : (setBccAcc b s).bccOk = s.bccOk := rfl
@[simp] theorem setBccAcc_ackByte : (setBccAcc b s).ackByte = s.ackByte := rfl
@[simp] theorem setBccAcc_ackV : (setBccAcc b s).ackV = s.ackV := rfl
@[simp] theorem setBccAcc_rxOvf : (setBccAcc b s).rxOvf = s.rxOvf := rfl
@[simp] theorem setBccAcc_strict : (setBccAcc b s).strict = s.strict := rfl
@[simp] theorem setBccAcc_rxFill : (setBccAcc b s).rxFill = s.rxFill := rfl
@[simp] theorem setBccAcc_call : (setBccAcc b s).call = s.call := rfl
@[simp] theorem setBccAcc_op : (setBccAcc b s).op = s.op := rfl
@[simp] theorem setBccAcc_inbox : (setBccAcc b s).inbox = s.inbox := rfl
@[simp] theorem setBccAcc_wAns : (setBccAcc b s).wAns = s.wAns := rfl
@[simp] theorem setBccAcc_rAns : (setBccAcc b s).rAns = s.rAns := rfl
@[simp] theorem setBccAcc_pEpoch : (setBccAcc b s).pEpoch = s.pEpoch := rfl
@[simp] theorem setBccAcc_freeCtr : (setBccAcc b s).freeCtr = s.freeCtr := rfl
@[simp] theorem setBccAcc_hostData : (setBccAcc b s).hostData = s.hostData := rfl
@[simp] theorem setBccAcc_trace : (setBccAcc b s).trace = s.trace := rfl

end

section
variable (s : State)

@[simp] theorem storeReplyLength_raddr : (storeReplyLength s).raddr = s.raddr := rfl
@[simp] theorem storeReplyLength_rcm : (storeReplyLength s).rcm = s.rcm := rfl
@[simp] theorem storeReplyLength_rpm : (storeReplyLength s).rpm = s.rpm := rfl
@[simp] theorem storeReplyLength_plen : (storeReplyLength s).plen = s.plen := rfl
@[simp] theorem storeReplyLength_p : (storeReplyLength s).p = s.p := rfl
@[simp] theorem storeReplyLength_xstate : (storeReplyLength s).xstate = s.xstate := rfl
@[simp] theorem storeReplyLength_txBuf : (storeReplyLength s).txBuf = s.txBuf := rfl
@[simp] theorem storeReplyLength_txLen : (storeReplyLength s).txLen = s.txLen := rfl
@[simp] theorem storeReplyLength_rxBuf : (storeReplyLength s).rxBuf = s.rxBuf := rfl
@[simp] theorem storeReplyLength_rxLen : (storeReplyLength s).rxLen = s.rxFill := rfl
@[simp] theorem storeReplyLength_rkind : (storeReplyLength s).rkind = s.rkind := rfl
@[simp] theorem storeReplyLength_rlen : (storeReplyLength s).rlen = s.rlen := rfl
@[simp] theorem storeReplyLength_rdisc : (storeReplyLength s).rdisc = s.rdisc := rfl
@[simp] theorem storeReplyLength_rst0 : (storeReplyLength s).rst0 = s.rst0 := rfl
@[simp] theorem storeReplyLength_rst1 : (storeReplyLength s).rst1 = s.rst1 := rfl
@[simp] theorem storeReplyLength_rst2 : (storeReplyLength s).rst2 = s.rst2 := rfl
@[simp] theorem storeReplyLength_re1 : (storeReplyLength s).re1 = s.re1 := rfl
@[simp] theorem storeReplyLength_re0 : (storeReplyLength s).re0 = s.re0 := rfl
@[simp] theorem storeReplyLength_rpoff : (storeReplyLength s).rpoff = s.rpoff := rfl
@[simp] theorem storeReplyLength_rplen : (storeReplyLength s).rplen = s.rplen := rfl
@[simp] theorem storeReplyLength_cfg : (storeReplyLength s).cfg = s.cfg := rfl
@[simp] theorem storeReplyLength_err : (storeReplyLength s).err = s.err := rfl
@[simp] theorem storeReplyLength_errInfo : (storeReplyLength s).errInfo = s.errInfo := rfl
@[simp] theorem storeReplyLength_bccErr : (storeReplyLength s).bccErr = s.bccErr := rfl
@[simp] theorem storeReplyLength_noAckV : (storeReplyLength s).noAckV = s.noAckV := rfl
@[simp] theorem storeReplyLength_bccAcc : (storeReplyLength s).bccAcc = s.bccAcc := rfl
@[simp] theorem storeReplyLength_bccIn : (storeReplyLength s).bccIn = s.bccIn := rfl
@[simp] theorem storeReplyLength_bccOut : (storeReplyLength s).bccOut = s.bccOut := rfl
@[simp] theorem storeReplyLength_bccOk : (storeReplyLength s).bccOk = s.bccOk := rfl
@[simp] theorem storeReplyLength_ackByte : (storeReplyLength s).ackByte = s.ackByte := rfl
@[simp] theorem storeReplyLength_ackV : (storeReplyLength s).ackV = s.ackV := rfl
@[simp] theorem storeReplyLength_rxOvf : (storeReplyLength s).rxOvf = s.rxOvf := rfl
@[simp] theorem storeReplyLength_strict : (storeReplyLength s).strict = s.strict := rfl
@[simp] theorem storeReplyLength_rxFill : (storeReplyLength s).rxFill = s.rxFill := rfl
@[simp] theorem storeReplyLength_call : (storeReplyLength s).call = s.call := rfl
@[simp] theorem storeReplyLength_op : (storeReplyLength s).op = s.op := rfl
@[simp] theorem storeReplyLength_inbox : (storeReplyLength s).inbox = s.inbox := rfl
@[simp] theorem storeReplyLength_wAns : (storeReplyLength s).wAns = s.wAns := rfl
@[simp] theorem storeReplyLength_rAns : (storeReplyLength s).rAns = s.rAns := rfl
@[simp] theorem storeReplyLength_pEpoch : (storeReplyLength s).pEpoch = s.pEpoch := rfl
@[simp] theorem storeReplyLength_freeCtr : (storeReplyLength s).freeCtr = s.freeCtr := rfl
@[simp] theorem storeReplyLength_hostData : (storeReplyLength s).hostData = s.hostData := rfl
@[simp] theorem storeReplyLength_trace : (storeReplyLength s).trace = s.trace := rfl

end

section
variable (x : XState) (s : State)

@[simp] theorem setX_raddr : (setX x s).raddr = s.raddr := rfl
@[simp] theorem setX_rcm : (setX x s).rcm = s.rcm := rfl
@[simp] theorem setX_rpm : (setX x s).rpm = s.rpm := rfl
@[simp] theorem setX_plen : (setX x s).plen = s.plen := rfl
@[simp] theorem setX_p : (setX x s).p = s.p := rfl
@[simp] theorem setX_xstate : (setX x s).xstate = x := rfl
@[simp] theorem setX_txBuf : (setX x s).txBuf = s.txBuf := rfl
@[simp] theorem setX_txLen : (setX x s).txLen = s.txLen := rfl
@[simp] theorem setX_rxBuf : (setX x s).rxBuf = s.rxBuf := rfl
@[simp] theorem setX_rxLen : (setX x s).rxLen = s.rxLen := rfl
@[simp] theorem setX_rkind : (setX x s).rkind = s.rkind := rfl
@[simp] theorem setX_rlen : (setX x s).rlen = s.rlen := rfl
@[simp] theorem setX_rdisc : (setX x s).rdisc = s.rdisc := rfl
@[simp] theorem setX_rst0 : (setX x s).rst0 = s.rst0 := rfl
@[simp] theorem setX_rst1 : (setX x s).rst1 = s.rst1 := rfl
@[simp] theorem setX_rst2 : (setX x s).rst2 = s.rst2 := rfl
@[simp] theorem setX_re1 : (setX x s).re1 = s.re1 := rfl
@[simp] theorem setX_re0 : (setX x s).re0 = s.re0 := rfl
@[simp] theorem setX_rpoff : (setX x s).rpoff = s.rpoff := rfl
@[simp] theorem setX_rplen : (setX x s).rplen = s.rplen := rfl
@[simp] theorem setX_cfg : (setX x s).cfg = s.cfg := rfl
@[simp] theorem setX_err : (setX x s).err = s.err := rfl
@[simp] theorem setX_errInfo : (setX x s).errInfo = s.errInfo := rfl
@[simp] theorem setX_bccErr : (setX x s).bccErr = s.bccErr := rfl
@[simp] theorem setX_noAckV : (setX x s).noAckV = s.noAckV := rfl
@[simp] theorem setX_bccAcc : (setX x s).bccAcc = s.bccAcc := rfl
@[simp] theorem setX_bccIn : (setX x s).bccIn = s.bccIn := rfl
@[simp] theorem setX_bccOut : (setX x s).bccOut = s.bccOut := rfl
@[simp] theorem setX_bccOk : (setX x s).bccOk = s.bccOk := rfl
@[simp] theorem setX_ackByte : (setX x s).ackByte = s.ackByte := rfl
@[simp] theorem setX_ackV : (setX x s).ackV = s.ackV := rfl
@[simp] theorem setX_rxOvf : (setX x s).rxOvf = s.rxOvf := rfl
@[simp] theorem setX_strict : (setX x s).strict = s.strict := rfl
@[simp] theorem setX_rxFill : (setX x s).rxFill = s.rxFill := rfl
@[simp] theorem setX_call : (setX x s).call = s.call := rfl
@[simp] theorem setX_op : (setX x s).op = s.op := rfl
@[simp] theorem setX_inbox : (setX x s).inbox = s.inbox := rfl
@[simp] theorem setX_wAns : (setX x s).wAns = s.wAns := rfl
@[simp] theorem setX_rAns : (setX x s).rAns = s.rAns := rfl
@[simp] theorem setX_pEpoch : (setX x s).pEpoch = s.pEpoch := rfl
@[simp] theorem setX_freeCtr : (setX x s).freeCtr = s.freeCtr := rfl
@[simp] theorem setX_hostData : (setX x s).hostData = s.hostData := rfl
@[simp] theorem setX_trace : (setX x s).trace = .enter x :: s.trace := rfl

end

section
variable (f : Err) (info : Byte) (s : State)

@[simp] theorem raise_raddr : (raise f info s).raddr = s.raddr := rfl
@[simp] theorem raise_rcm : (raise f info s).rcm = s.rcm := rfl
@[simp] theorem raise_rpm : (raise f info s).rpm = s.rpm := rfl
@[simp] theorem raise_plen : (raise f info s).plen = s.plen := rfl
@[simp] theorem raise_p : (raise f info s).p = s.p := rfl
@[simp] theorem raise_xstate : (raise f info s).xstate = s.xstate := rfl
@[simp] theorem raise_txBuf : (raise f info s).txBuf = s.txBuf := rfl
@[simp] theorem raise_txLen : (raise f info s).txLen = s.txLen := rfl
@[simp] theorem raise_rxBuf : (raise f info s).rxBuf = s.rxBuf := rfl
@[simp] theorem raise_rxLen : (raise f info s).rxLen = s.rxLen := rfl
@[simp] theorem raise_rkind : (raise f info s).rkind = s.rkind := rfl
@[simp] theorem raise_rlen : (raise f info s).rlen = s.rlen := rfl
@[simp] theorem raise_rdisc : (raise f info s).rdisc = s.rdisc := rfl
@[simp] theorem raise_rst0 : (raise f info s).rst0 = s.rst0 := rfl
@[simp] theorem raise_rst1 : (raise f info s).rst1 = s.rst1 := rfl
@[simp] theorem raise_rst2 : (raise f info s).rst2 = s.rst2 := rfl
@[simp] theorem raise_re1 : (raise f info s).re1 = s.re1 := rfl
@[simp] theorem raise_re0 : (raise f info s).re0 = s.re0 := rfl
@[simp] theorem raise_rpoff : (raise f info s).rpoff = s.rpoff := rfl
@[simp] theorem raise_rplen : (raise f info s).rplen = s.rplen := rfl
@[simp] theorem raise_cfg : (raise f info s).cfg = s.cfg := rfl
@[simp] theorem raise_err : (raise f info s).err = f := rfl
@[simp] theorem raise_errInfo : (raise f info s).errInfo = info := rfl
@[simp] theorem raise_bccErr : (raise f info s).bccErr = s.bccErr := rfl
@[simp] theorem raise_noAckV : (raise f info s).noAckV = s.noAckV := rfl
@[simp] theorem raise_bccAcc : (raise f info s).bccAcc = s.bccAcc := rfl
@[simp] theorem raise_bccIn : (raise f info s).bccIn = s.bccIn := rfl
@[simp] theorem raise_bccOut : (raise f info s).bccOut = s.bccOut := rfl
@[simp] theorem raise_bccOk : (raise f info s).bccOk = s.bccOk := rfl
@[simp] theorem raise_ackByte : (raise f info s).ackByte = s.ackByte := rfl
@[simp] theorem raise_ackV : (raise f info s).ackV = s.ackV := rfl
@[simp] theorem raise_rxOvf : (raise f info s).rxOvf = s.rxOvf := rfl
@[simp] theorem raise_strict : (raise f info s).strict = s.strict := rfl
@[simp] theorem raise_rxFill : (raise f info s).rxFill = s.rxFill := rfl
@[simp] theorem raise_call : (raise f info s).call = s.call := rfl
@[simp] theorem raise_op : (raise f info s).op = s.op := rfl
@[simp] theorem raise_inbox : (raise f info s).inbox = s.inbox := rfl
@[simp] theorem raise_wAns : (raise f info s).wAns = s.wAns := rfl
@[simp] theorem raise_rAns : (raise f info s).rAns = s.rAns := rfl
@[simp] theorem raise_pEpoch : (raise f info s).pEpoch = s.pEpoch := rfl
@[simp] theorem raise_freeCtr : (raise f info s).freeCtr = s.freeCtr := rfl
@[simp] theorem raise_hostData : (raise f info s).hostData = s.hostData := rfl
@[simp] theorem raise_trace : (raise f info s).trace = s.trace := rfl

end

section
variable (s : State)

@[simp] theorem clearFailure_raddr : (clearFailure s).raddr = s.raddr := rfl
@[simp] theorem clearFailure_rcm : (clearFailure s).rcm = s.rcm := rfl
@[simp] theorem clearFailure_rpm : (clearFailure s).rpm = s.rpm := rfl
@[simp] theorem clearFailure_plen : (clearFailure s).plen = s.plen := rfl
@[simp] theorem clearFailure_p : (clearFailure s).p = s.p := rfl
@[simp] theorem clearFailure_xstate : (clearFailure s).xstate = s.xstate := rfl
@[simp] theorem clearFailure_txBuf : (clearFailure s).txBuf = s.txBuf := rfl
@[simp] theorem clearFailure_txLen : (clearFailure s).txLen = s.txLen := rfl
@[simp] theorem clearFailure_rxBuf : (clearFailure s).rxBuf = s.rxBuf := rfl
@[simp] theorem clearFailure_rxLen : (clearFailure s).rxLen = s.rxLen := rfl
@[simp] theorem clearFailure_rkind : (clearFailure s).rkind = s.rkind := rfl
@[simp] theorem clearFailure_rlen : (clearFailure s).rlen = s.rlen := rfl
@[simp] theorem clearFailure_rdisc : (clearFailure s).rdisc = s.rdisc := rfl
@[simp] theorem clearFailure_rst0 : (clearFailure s).rst0 = s.rst0 := rfl
@[simp] theorem clearFailure_rst1 : (clearFailure s).rst1 = s.rst1 := rfl
@[simp] theorem clearFailure_rst2 : (clearFailure s).rst2 = s.rst2 := rfl
@[simp] theorem clearFailure_re1 : (clearFailure s).re1 = s.re1 := rfl
@[simp] theorem clearFailure_re0 : (clearFailure s).re0 = s.re0 := rfl
@[simp] theorem clearFailure_rpoff : (clearFailure s).rpoff = s.rpoff := rfl
@[simp] theorem clearFailure_rplen : (clearFailure s).rplen = s.rplen := rfl
@[simp] theorem clearFailure_cfg : (clearFailure s).cfg = s.cfg := rfl
@[simp] theorem clearFailure_err : (clearFailure s).err = .none_ := rfl
@[simp] theorem clearFailure_errInfo : (clearFailure s).errInfo = 0x00#8 := rfl
@[simp] theorem clearFailure_bccErr : (clearFailure s).bccErr = s.bccErr := rfl
@[simp] theorem clearFailure_noAckV : (clearFailure s).noAckV = s.noAckV := rfl
@[simp] theorem clearFailure_bccAcc : (clearFailure s).bccAcc = s.bccAcc := rfl
@[simp] theorem clearFailure_bccIn : (clearFailure s).bccIn = s.bccIn := rfl
@[simp] theorem clearFailure_bccOut : (clearFailure s).bccOut = s.bccOut := rfl
@[simp] theorem clearFailure_bccOk : (clearFailure s).bccOk = s.bccOk := rfl
@[simp] theorem clearFailure_ackByte : (clearFailure s).ackByte = s.ackByte := rfl
@[simp] theorem clearFailure_ackV : (clearFailure s).ackV = s.ackV := rfl
@[simp] theorem clearFailure_rxOvf : (clearFailure s).rxOvf = s.rxOvf := rfl
@[simp] theorem clearFailure_strict : (clearFailure s).strict = s.strict := rfl
@[simp] theorem clearFailure_rxFill : (clearFailure s).rxFill = s.rxFill := rfl
@[simp] theorem clearFailure_call : (clearFailure s).call = s.call := rfl
@[simp] theorem clearFailure_op : (clearFailure s).op = s.op := rfl
@[simp] theorem clearFailure_inbox : (clearFailure s).inbox = s.inbox := rfl
@[simp] theorem clearFailure_wAns : (clearFailure s).wAns = s.wAns := rfl
@[simp] theorem clearFailure_rAns : (clearFailure s).rAns = s.rAns := rfl
@[simp] theorem clearFailure_pEpoch : (clearFailure s).pEpoch = s.pEpoch := rfl
@[simp] theorem clearFailure_freeCtr : (clearFailure s).freeCtr = s.freeCtr := rfl
@[simp] theorem clearFailure_hostData : (clearFailure s).hostData = s.hostData := rfl
@[simp] theorem clearFailure_trace : (clearFailure s).trace = s.trace := rfl

end

section
variable (s : State)

@[simp] theorem endOp_raddr : (endOp s).raddr = s.raddr := rfl
@[simp] theorem endOp_rcm : (endOp s).rcm = s.rcm := rfl
@[simp] theorem endOp_rpm : (endOp s).rpm = s.rpm := rfl
@[simp] theorem endOp_plen : (endOp s).plen = s.plen := rfl
@[simp] theorem endOp_p : (endOp s).p = s.p := rfl
@[simp] theorem endOp_xstate : (endOp s).xstate = s.xstate := rfl
@[simp] theorem endOp_txBuf : (endOp s).txBuf = s.txBuf := rfl
@[simp] theorem endOp_txLen : (endOp s).txLen = s.txLen := rfl
@[simp] theorem endOp_rxBuf : (endOp s).rxBuf = s.rxBuf := rfl
@[simp] theorem endOp_rxLen : (endOp s).rxLen = s.rxLen := rfl
@[simp] theorem endOp_rkind : (endOp s).rkind = s.rkind := rfl
@[simp] theorem endOp_rlen : (endOp s).rlen = s.rlen := rfl
@[simp] theorem endOp_rdisc : (endOp s).rdisc = s.rdisc := rfl
@[simp] theorem endOp_rst0 : (endOp s).rst0 = s.rst0 := rfl
@[simp] theorem endOp_rst1 : (endOp s).rst1 = s.rst1 := rfl
@[simp] theorem endOp_rst2 : (endOp s).rst2 = s.rst2 := rfl
@[simp] theorem endOp_re1 : (endOp s).re1 = s.re1 := rfl
@[simp] theorem endOp_re0 : (endOp s).re0 = s.re0 := rfl
@[simp] theorem endOp_rpoff : (endOp s).rpoff = s.rpoff := rfl
@[simp] theorem endOp_rplen : (endOp s).rplen = s.rplen := rfl
@[simp] theorem endOp_cfg : (endOp s).cfg = s.cfg := rfl
@[simp] theorem endOp_err : (endOp s).err = s.err := rfl
@[simp] theorem endOp_errInfo : (endOp s).errInfo = s.errInfo := rfl
@[simp] theorem endOp_bccErr : (endOp s).bccErr = s.bccErr := rfl
@[simp] theorem endOp_noAckV : (endOp s).noAckV = s.noAckV := rfl
@[simp] theorem endOp_bccAcc : (endOp s).bccAcc = s.bccAcc := rfl
@[simp] theorem endOp_bccIn : (endOp s).bccIn = s.bccIn := rfl
@[simp] theorem endOp_bccOut : (endOp s).bccOut = s.bccOut := rfl
@[simp] theorem endOp_bccOk : (endOp s).bccOk = s.bccOk := rfl
@[simp] theorem endOp_ackByte : (endOp s).ackByte = s.ackByte := rfl
@[simp] theorem endOp_ackV : (endOp s).ackV = s.ackV := rfl
@[simp] theorem endOp_rxOvf : (endOp s).rxOvf = s.rxOvf := rfl
@[simp] theorem endOp_strict : (endOp s).strict = s.strict := rfl
@[simp] theorem endOp_rxFill : (endOp s).rxFill = s.rxFill := rfl
@[simp] theorem endOp_call : (endOp s).call = .none_ := rfl
@[simp] theorem endOp_op : (endOp s).op = .none_ := rfl
@[simp] theorem endOp_inbox : (endOp s).inbox = s.inbox := rfl
@[simp] theorem endOp_wAns : (endOp s).wAns = s.wAns := rfl
@[simp] theorem endOp_rAns : (endOp s).rAns = s.rAns := rfl
@[simp] theorem endOp_pEpoch : (endOp s).pEpoch = s.pEpoch := rfl
@[simp] theorem endOp_freeCtr : (endOp s).freeCtr = s.freeCtr := rfl
@[simp] theorem endOp_hostData : (endOp s).hostData = s.hostData := rfl
@[simp] theorem endOp_trace : (endOp s).trace = s.trace := rfl

end

section
variable (f : Err) (info : Byte) (x : XState) (s : State)

@[simp] theorem failExchange_raddr : (failExchange f info x s).raddr = s.raddr := rfl
@[simp] theorem failExchange_rcm : (failExchange f info x s).rcm = s.rcm := rfl
@[simp] theorem failExchange_rpm : (failExchange f info x s).rpm = s.rpm := rfl
@[simp] theorem failExchange_plen : (failExchange f info x s).plen = s.plen := rfl
@[simp] theorem failExchange_p : (failExchange f info x s).p = s.p := rfl
@[simp] theorem failExchange_xstate : (failExchange f info x s).xstate = x := rfl
@[simp] theorem failExchange_txBuf : (failExchange f info x s).txBuf = s.txBuf := rfl
@[simp] theorem failExchange_txLen : (failExchange f info x s).txLen = s.txLen := rfl
@[simp] theorem failExchange_rxBuf : (failExchange f info x s).rxBuf = s.rxBuf := rfl
@[simp] theorem failExchange_rxLen : (failExchange f info x s).rxLen = s.rxLen := rfl
@[simp] theorem failExchange_rkind : (failExchange f info x s).rkind = s.rkind := rfl
@[simp] theorem failExchange_rlen : (failExchange f info x s).rlen = s.rlen := rfl
@[simp] theorem failExchange_rdisc : (failExchange f info x s).rdisc = s.rdisc := rfl
@[simp] theorem failExchange_rst0 : (failExchange f info x s).rst0 = s.rst0 := rfl
@[simp] theorem failExchange_rst1 : (failExchange f info x s).rst1 = s.rst1 := rfl
@[simp] theorem failExchange_rst2 : (failExchange f info x s).rst2 = s.rst2 := rfl
@[simp] theorem failExchange_re1 : (failExchange f info x s).re1 = s.re1 := rfl
@[simp] theorem failExchange_re0 : (failExchange f info x s).re0 = s.re0 := rfl
@[simp] theorem failExchange_rpoff : (failExchange f info x s).rpoff = s.rpoff := rfl
@[simp] theorem failExchange_rplen : (failExchange f info x s).rplen = s.rplen := rfl
@[simp] theorem failExchange_cfg : (failExchange f info x s).cfg = s.cfg := rfl
@[simp] theorem failExchange_err : (failExchange f info x s).err = f := rfl
@[simp] theorem failExchange_errInfo : (failExchange f info x s).errInfo = info := rfl
@[simp] theorem failExchange_bccErr : (failExchange f info x s).bccErr = s.bccErr := rfl
@[simp] theorem failExchange_noAckV : (failExchange f info x s).noAckV = s.noAckV := rfl
@[simp] theorem failExchange_bccAcc : (failExchange f info x s).bccAcc = s.bccAcc := rfl
@[simp] theorem failExchange_bccIn : (failExchange f info x s).bccIn = s.bccIn := rfl
@[simp] theorem failExchange_bccOut : (failExchange f info x s).bccOut = s.bccOut := rfl
@[simp] theorem failExchange_bccOk : (failExchange f info x s).bccOk = s.bccOk := rfl
@[simp] theorem failExchange_ackByte : (failExchange f info x s).ackByte = s.ackByte := rfl
@[simp] theorem failExchange_ackV : (failExchange f info x s).ackV = s.ackV := rfl
@[simp] theorem failExchange_rxOvf : (failExchange f info x s).rxOvf = s.rxOvf := rfl
@[simp] theorem failExchange_strict : (failExchange f info x s).strict = s.strict := rfl
@[simp] theorem failExchange_rxFill : (failExchange f info x s).rxFill = s.rxFill := rfl
@[simp] theorem failExchange_call : (failExchange f info x s).call = .none_ := rfl
@[simp] theorem failExchange_op : (failExchange f info x s).op = .none_ := rfl
@[simp] theorem failExchange_inbox : (failExchange f info x s).inbox = s.inbox := rfl
@[simp] theorem failExchange_wAns : (failExchange f info x s).wAns = s.wAns := rfl
@[simp] theorem failExchange_rAns : (failExchange f info x s).rAns = s.rAns := rfl
@[simp] theorem failExchange_pEpoch : (failExchange f info x s).pEpoch = s.pEpoch := rfl
@[simp] theorem failExchange_freeCtr : (failExchange f info x s).freeCtr = s.freeCtr := rfl
@[simp] theorem failExchange_hostData : (failExchange f info x s).hostData = s.hostData := rfl
@[simp] theorem failExchange_trace : (failExchange f info x s).trace = .enter x :: s.trace := rfl

end

section
variable (s : State)

@[simp] theorem forgetReply_raddr : (forgetReply s).raddr = s.raddr := rfl
@[simp] theorem forgetReply_rcm : (forgetReply s).rcm = s.rcm := rfl
@[simp] theorem forgetReply_rpm : (forgetReply s).rpm = s.rpm := rfl
@[simp] theorem forgetReply_plen : (forgetReply s).plen = s.plen := rfl
@[simp] theorem forgetReply_p : (forgetReply s).p = s.p := rfl
@[simp] theorem forgetReply_xstate : (forgetReply s).xstate = s.xstate := rfl
@[simp] theorem forgetReply_txBuf : (forgetReply s).txBuf = s.txBuf := rfl
@[simp] theorem forgetReply_txLen : (forgetReply s).txLen = s.txLen := rfl
@[simp] theorem forgetReply_rxBuf : (forgetReply s).rxBuf = s.rxBuf.forget := rfl
@[simp] theorem forgetReply_rxLen : (forgetReply s).rxLen = s.rxLen := rfl
@[simp] theorem forgetReply_rkind : (forgetReply s).rkind = s.rkind := rfl
@[simp] theorem forgetReply_rlen : (forgetReply s).rlen = s.rlen := rfl
@[simp] theorem forgetReply_rdisc : (forgetReply s).rdisc = s.rdisc := rfl
@[simp] theorem forgetReply_rst0 : (forgetReply s).rst0 = s.rst0 := rfl
@[simp] theorem forgetReply_rst1 : (forgetReply s).rst1 = s.rst1 := rfl
@[simp] theorem forgetReply_rst2 : (forgetReply s).rst2 = s.rst2 := rfl
@[simp] theorem forgetReply_re1 : (forgetReply s).re1 = s.re1 := rfl
@[simp] theorem forgetReply_re0 : (forgetReply s).re0 = s.re0 := rfl
@[simp] theorem forgetReply_rpoff : (forgetReply s).rpoff = s.rpoff := rfl
@[simp] theorem forgetReply_rplen : (forgetReply s).rplen = s.rplen := rfl
@[simp] theorem forgetReply_cfg : (forgetReply s).cfg = s.cfg := rfl
@[simp] theorem forgetReply_err : (forgetReply s).err = s.err := rfl
@[simp] theorem forgetReply_errInfo : (forgetReply s).errInfo = s.errInfo := rfl
@[simp] theorem forgetReply_bccErr : (forgetReply s).bccErr = s.bccErr := rfl
@[simp] theorem forgetReply_noAckV : (forgetReply s).noAckV = s.noAckV := rfl
@[simp] theorem forgetReply_bccAcc : (forgetReply s).bccAcc = s.bccAcc := rfl
@[simp] theorem forgetReply_bccIn : (forgetReply s).bccIn = s.bccIn := rfl
@[simp] theorem forgetReply_bccOut : (forgetReply s).bccOut = s.bccOut := rfl
@[simp] theorem forgetReply_bccOk : (forgetReply s).bccOk = s.bccOk := rfl
@[simp] theorem forgetReply_ackByte : (forgetReply s).ackByte = s.ackByte := rfl
@[simp] theorem forgetReply_ackV : (forgetReply s).ackV = s.ackV := rfl
@[simp] theorem forgetReply_rxOvf : (forgetReply s).rxOvf = s.rxOvf := rfl
@[simp] theorem forgetReply_strict : (forgetReply s).strict = s.strict := rfl
@[simp] theorem forgetReply_rxFill : (forgetReply s).rxFill = s.rxFill := rfl
@[simp] theorem forgetReply_call : (forgetReply s).call = s.call := rfl
@[simp] theorem forgetReply_op : (forgetReply s).op = s.op := rfl
@[simp] theorem forgetReply_inbox : (forgetReply s).inbox = s.inbox := rfl
@[simp] theorem forgetReply_wAns : (forgetReply s).wAns = s.wAns := rfl
@[simp] theorem forgetReply_rAns : (forgetReply s).rAns = s.rAns := rfl
@[simp] theorem forgetReply_pEpoch : (forgetReply s).pEpoch = s.pEpoch := rfl
@[simp] theorem forgetReply_freeCtr : (forgetReply s).freeCtr = s.freeCtr := rfl
@[simp] theorem forgetReply_hostData : (forgetReply s).hostData = s.hostData := rfl
@[simp] theorem forgetReply_trace : (forgetReply s).trace = s.trace := rfl

end

section
variable (bs : List Byte) (c : Call) (s : State)

@[simp] theorem callWrite_raddr : (callWrite bs c s).raddr = s.raddr := rfl
@[simp] theorem callWrite_rcm : (callWrite bs c s).rcm = s.rcm := rfl
@[simp] theorem callWrite_rpm : (callWrite bs c s).rpm = s.rpm := rfl
@[simp] theorem callWrite_plen : (callWrite bs c s).plen = s.plen := rfl
@[simp] theorem callWrite_p : (callWrite bs c s).p = s.p := rfl
@[simp] theorem callWrite_xstate : (callWrite bs c s).xstate = s.xstate := rfl
@[simp] theorem callWrite_txBuf : (callWrite bs c s).txBuf = s.txBuf := rfl
@[simp] theorem callWrite_txLen : (callWrite bs c s).txLen = s.txLen := rfl
@[simp] theorem callWrite_rxBuf : (callWrite bs c s).rxBuf = s.rxBuf := rfl
@[simp] theorem callWrite_rxLen : (callWrite bs c s).rxLen = s.rxLen := rfl
@[simp] theorem callWrite_rkind : (callWrite bs c s).rkind = s.rkind := rfl
@[simp] theorem callWrite_rlen : (callWrite bs c s).rlen = s.rlen := rfl
@[simp] theorem callWrite_rdisc : (callWrite bs c s).rdisc = s.rdisc := rfl
@[simp] theorem callWrite_rst0 : (callWrite bs c s).rst0 = s.rst0 := rfl
@[simp] theorem callWrite_rst1 : (callWrite bs c s).rst1 = s.rst1 := rfl
@[simp] theorem callWrite_rst2 : (callWrite bs c s).rst2 = s.rst2 := rfl
@[simp] theorem callWrite_re1 : (callWrite bs c s).re1 = s.re1 := rfl
@[simp] theorem callWrite_re0 : (callWrite bs c s).re0 = s.re0 := rfl
@[simp] theorem callWrite_rpoff : (callWrite bs c s).rpoff = s.rpoff := rfl
@[simp] theorem callWrite_rplen : (callWrite bs c s).rplen = s.rplen := rfl
@[simp] theorem callWrite_cfg : (callWrite bs c s).cfg = s.cfg := rfl
@[simp] theorem callWrite_err : (callWrite bs c s).err = s.err := rfl
@[simp] theorem callWrite_errInfo : (callWrite bs c s).errInfo = s.errInfo := rfl
@[simp] theorem callWrite_bccErr : (callWrite bs c s).bccErr = s.bccErr := rfl
@[simp] theorem callWrite_noAckV : (callWrite bs c s).noAckV = s.noAckV := rfl
@[simp] theorem callWrite_bccAcc : (callWrite bs c s).bccAcc = s.bccAcc := rfl
@[simp] theorem callWrite_bccIn : (callWrite bs c s).bccIn = s.bccIn := rfl
@[simp] theorem callWrite_bccOut : (callWrite bs c s).bccOut = s.bccOut := rfl
@[simp] theorem callWrite_bccOk : (callWrite bs c s).bccOk = s.bccOk := rfl
@[simp] theorem callWrite_ackByte : (callWrite bs c s).ackByte = s.ackByte := rfl
@[simp] theorem callWrite_ackV : (callWrite bs c s).ackV = s.ackV := rfl
@[simp] theorem callWrite_rxOvf : (callWrite bs c s).rxOvf = s.rxOvf := rfl
@[simp] theorem callWrite_strict : (callWrite bs c s).strict = s.strict := rfl
@[simp] theorem callWrite_rxFill : (callWrite bs c s).rxFill = s.rxFill := rfl
@[simp] theorem callWrite_call : (callWrite bs c s).call = c := rfl
@[simp] theorem callWrite_op : (callWrite bs c s).op = s.op := rfl
@[simp] theorem callWrite_inbox : (callWrite bs c s).inbox = s.inbox := rfl
@[simp] theorem callWrite_wAns : (callWrite bs c s).wAns = s.wAns := rfl
@[simp] theorem callWrite_rAns : (callWrite bs c s).rAns = s.rAns := rfl
@[simp] theorem callWrite_pEpoch : (callWrite bs c s).pEpoch = s.pEpoch := rfl
@[simp] theorem callWrite_freeCtr : (callWrite bs c s).freeCtr = s.freeCtr := rfl
@[simp] theorem callWrite_hostData : (callWrite bs c s).hostData = s.hostData := rfl
@[simp] theorem callWrite_trace : (callWrite bs c s).trace = .write bs :: s.trace := rfl

end

section
variable (ok : Bool) (s : State)

@[simp] theorem recordChecksum_raddr : (recordChecksum ok s).raddr = s.raddr := rfl
@[simp] theorem recordChecksum_rcm : (recordChecksum ok s).rcm = s.rcm := rfl
@[simp] theorem recordChecksum_rpm : (recordChecksum ok s).rpm = s.rpm := rfl
@[simp] theorem recordChecksum_plen : (recordChecksum ok s).plen = s.plen := rfl
@[simp] theorem recordChecksum_p : (recordChecksum ok s).p = s.p := rfl
@[simp] theorem recordChecksum_xstate : (recordChecksum ok s).xstate = s.xstate := rfl
@[simp] theorem recordChecksum_txBuf : (recordChecksum ok s).txBuf = s.txBuf := rfl
@[simp] theorem recordChecksum_txLen : (recordChecksum ok s).txLen = s.txLen := rfl
@[simp] theorem recordChecksum_rxBuf : (recordChecksum ok s).rxBuf = s.rxBuf := rfl
@[simp] theorem recordChecksum_rxLen : (recordChecksum ok s).rxLen = s.rxLen := rfl
@[simp] theorem recordChecksum_rkind : (recordChecksum ok s).rkind = s.rkind := rfl
@[simp] theorem recordChecksum_rlen : (recordChecksum ok s).rlen = s.rlen := rfl
@[simp] theorem recordChecksum_rdisc : (recordChecksum ok s).rdisc = s.rdisc := rfl
@[simp] theorem recordChecksum_rst0 : (recordChecksum ok s).rst0 = s.rst0 := rfl
@[simp] theorem recordChecksum_rst1 : (recordChecksum ok s).rst1 = s.rst1 := rfl
@[simp] theorem recordChecksum_rst2 : (recordChecksum ok s).rst2 = s.rst2 := rfl
@[simp] theorem recordChecksum_re1 : (recordChecksum ok s).re1 = s.re1 := rfl
@[simp] theorem recordChecksum_re0 : (recordChecksum ok s).re0 = s.re0 := rfl
@[simp] theorem recordChecksum_rpoff : (recordChecksum ok s).rpoff = s.rpoff := rfl
@[simp] theorem recordChecksum_rplen : (recordChecksum ok s).rplen = s.rplen := rfl
@[simp] theorem recordChecksum_cfg : (recordChecksum ok s).cfg = s.cfg := rfl
@[simp] theorem recordChecksum_err : (recordChecksum ok s).err = s.err := rfl
@[simp] theorem recordChecksum_errInfo : (recordChecksum ok s).errInfo = s.errInfo := rfl
@[simp] theorem recordChecksum_bccErr : (recordChecksum ok s).bccErr = (s.bccErr || !ok) := rfl
@[simp] theorem recordChecksum_noAckV : (recordChecksum ok s).noAckV = s.noAckV := rfl
@[simp] theorem recordChecksum_bccAcc : (recordChecksum ok s).bccAcc = s.bccAcc := rfl
@[simp] theorem recordChecksum_bccIn : (recordChecksum ok s).bccIn = s.bccIn := rfl
@[simp] theorem recordChecksum_bccOut : (recordChecksum ok s).bccOut = s.bccOut := rfl
@[simp] theorem recordChecksum_bccOk : (recordChecksum ok s).bccOk = s.bccOk := rfl
@[simp] theorem recordChecksum_ackByte : (recordChecksum ok s).ackByte = s.ackByte := rfl
@[simp] theorem recordChecksum_ackV : (recordChecksum ok s).ackV = s.ackV := rfl
@[simp] theorem recordChecksum_rxOvf : (recordChecksum ok s).rxOvf = s.rxOvf := rfl
@[simp] theorem recordChecksum_strict : (recordChecksum ok s).strict = s.strict := rfl
@[simp] theorem recordChecksum_rxFill : (recordChecksum ok s).rxFill = s.rxFill := rfl
@[simp] theorem recordChecksum_call : (recordChecksum ok s).call = s.call := rfl
@[simp] theorem recordChecksum_op : (recordChecksum ok s).op = s.op := rfl
@[simp] theorem recordChecksum_inbox : (recordChecksum ok s).inbox = s.inbox := rfl
@[simp] theorem recordChecksum_wAns : (recordChecksum ok s).wAns = s.wAns := rfl
@[simp] theorem recordChecksum_rAns : (recordChecksum ok s).rAns = s.rAns := rfl
@[simp] theorem recordChecksum_pEpoch : (recordChecksum ok s).pEpoch = s.pEpoch := rfl
@[simp] theorem recordChecksum_freeCtr : (recordChecksum ok s).freeCtr = s.freeCtr := rfl
@[simp] theorem recordChecksum_hostData : (recordChecksum ok s).hostData = s.hostData := rfl
@[simp] theorem recordChecksum_trace : (recordChecksum ok s).trace = s.trace := rfl

end

section
variable (s : State)

@[simp] theorem recordNoAckByte_raddr : (recordNoAckByte s).raddr = s.raddr := rfl
@[simp] theorem recordNoAckByte_rcm : (recordNoAckByte s).rcm = s.rcm := rfl
@[simp] theorem recordNoAckByte_rpm : (recordNoAckByte s).rpm = s.rpm := rfl
@[simp] theorem recordNoAckByte_plen : (recordNoAckByte s).plen = s.plen := rfl
@[simp] theorem recordNoAckByte_p : (recordNoAckByte s).p = s.p := rfl
@[simp] theorem recordNoAckByte_xstate : (recordNoAckByte s).xstate = s.xstate := rfl
@[simp] theorem recordNoAckByte_txBuf : (recordNoAckByte s).txBuf = s.txBuf := rfl
@[simp] theorem recordNoAckByte_txLen : (recordNoAckByte s).txLen = s.txLen := rfl
@[simp] theorem recordNoAckByte_rxBuf : (recordNoAckByte s).rxBuf = s.rxBuf := rfl
@[simp] theorem recordNoAckByte_rxLen : (recordNoAckByte s).rxLen = s.rxLen := rfl
@[simp] theorem recordNoAckByte_rkind : (recordNoAckByte s).rkind = s.rkind := rfl
@[simp] theorem recordNoAckByte_rlen : (recordNoAckByte s).rlen = s.rlen := rfl
@[simp] theorem recordNoAckByte_rdisc : (recordNoAckByte s).rdisc = s.rdisc := rfl
@[simp] theorem recordNoAckByte_rst0 : (recordNoAckByte s).rst0 = s.rst0 := rfl
@[simp] theorem recordNoAckByte_rst1 : (recordNoAckByte s).rst1 = s.rst1 := rfl
@[simp] theorem recordNoAckByte_rst2 : (recordNoAckByte s).rst2 = s.rst2 := rfl
@[simp] theorem recordNoAckByte_re1 : (recordNoAckByte s).re1 = s.re1 := rfl
@[simp] theorem recordNoAckByte_re0 : (recordNoAckByte s).re0 = s.re0 := rfl
@[simp] theorem recordNoAckByte_rpoff : (recordNoAckByte s).rpoff = s.rpoff := rfl
@[simp] theorem recordNoAckByte_rplen : (recordNoAckByte s).rplen = s.rplen := rfl
@[simp] theorem recordNoAckByte_cfg : (recordNoAckByte s).cfg = s.cfg := rfl
@[simp] theorem recordNoAckByte_err : (recordNoAckByte s).err = s.err := rfl
@[simp] theorem recordNoAckByte_errInfo : (recordNoAckByte s).errInfo = s.errInfo := rfl
@[simp] theorem recordNoAckByte_bccErr : (recordNoAckByte s).bccErr = s.bccErr := rfl
@[simp] theorem recordNoAckByte_noAckV : (recordNoAckByte s).noAckV = s.ackV := rfl
@[simp] theorem recordNoAckByte_bccAcc : (recordNoAckByte s).bccAcc = s.bccAcc := rfl
@[simp] theorem recordNoAckByte_bccIn : (recordNoAckByte s).bccIn = s.bccIn := rfl
@[simp] theorem recordNoAckByte_bccOut : (recordNoAckByte s).bccOut = s.bccOut := rfl
@[simp] theorem recordNoAckByte_bccOk : (recordNoAckByte s).bccOk = s.bccOk := rfl
@[simp] theorem recordNoAckByte_ackByte : (recordNoAckByte s).ackByte = s.ackByte := rfl
@[simp] theorem recordNoAckByte_ackV : (recordNoAckByte s).ackV = s.ackV := rfl
@[simp] theorem recordNoAckByte_rxOvf : (recordNoAckByte s).rxOvf = s.rxOvf := rfl
@[simp] theorem recordNoAckByte_strict : (recordNoAckByte s).strict = s.strict := rfl
@[simp] theorem recordNoAckByte_rxFill : (recordNoAckByte s).rxFill = s.rxFill := rfl
@[simp] theorem recordNoAckByte_call : (recordNoAckByte s).call = s.call := rfl
@[simp] theorem recordNoAckByte_op : (recordNoAckByte s).op = s.op := rfl
@[simp] theorem recordNoAckByte_inbox : (recordNoAckByte s).inbox = s.inbox := rfl
@[simp] theorem recordNoAckByte_wAns : (recordNoAckByte s).wAns = s.wAns := rfl
@[simp] theorem recordNoAckByte_rAns : (recordNoAckByte s).rAns = s.rAns := rfl
@[simp] theorem recordNoAckByte_pEpoch : (recordNoAckByte s).pEpoch = s.pEpoch := rfl
@[simp] theorem recordNoAckByte_freeCtr : (recordNoAckByte s).freeCtr = s.freeCtr := rfl
@[simp] theorem recordNoAckByte_hostData : (recordNoAckByte s).hostData = s.hostData := rfl
@[simp] theorem recordNoAckByte_trace : (recordNoAckByte s).trace = s.trace := rfl

end

section
variable (s : State)

@[simp] theorem startDecode_raddr : (startDecode s).raddr = s.raddr := rfl
@[simp] theorem startDecode_rcm : (startDecode s).rcm = s.rcm := rfl
@[simp] theorem startDecode_rpm : (startDecode s).rpm = s.rpm := rfl
@[simp] theorem startDecode_plen : (startDecode s).plen = s.plen := rfl
@[simp] theorem startDecode_p : (startDecode s).p = s.p := rfl
@[simp] theorem startDecode_xstate : (startDecode s).xstate = s.xstate := rfl
@[simp] theorem startDecode_txBuf : (startDecode s).txBuf = s.txBuf := rfl
@[simp] theorem startDecode_txLen : (startDecode s).txLen = s.txLen := rfl
@[simp] theorem startDecode_rxBuf : (startDecode s).rxBuf = s.rxBuf := rfl
@[simp] theorem startDecode_rxLen : (startDecode s).rxLen = s.rxLen := rfl
@[simp] theorem startDecode_rkind : (startDecode s).rkind = .none_ := rfl
@[simp] theorem startDecode_rlen : (startDecode s).rlen = s.rlen := rfl
@[simp] theorem startDecode_rdisc : (startDecode s).rdisc = s.rdisc := rfl
@[simp] theorem startDecode_rst0 : (startDecode s).rst0 = s.rst0 := rfl
@[simp] theorem startDecode_rst1 : (startDecode s).rst1 = s.rst1 := rfl
@[simp] theorem startDecode_rst2 : (startDecode s).rst2 = s.rst2 := rfl
@[simp] theorem startDecode_re1 : (startDecode s).re1 = s.re1 := rfl
@[simp] theorem startDecode_re0 : (startDecode s).re0 = s.re0 := rfl
@[simp] theorem startDecode_rpoff : (startDecode s).rpoff = s.rpoff := rfl
@[simp] theorem startDecode_rplen : (startDecode s).rplen = s.rplen := rfl
@[simp] theorem startDecode_cfg : (startDecode s).cfg = s.cfg := rfl
@[simp] theorem startDecode_err : (startDecode s).err = .none_ := rfl
@[simp] theorem startDecode_errInfo : (startDecode s).errInfo = 0x00#8 := rfl
@[simp] theorem startDecode_bccErr : (startDecode s).bccErr = s.bccErr := rfl
@[simp] theorem startDecode_noAckV : (startDecode s).noAckV = s.noAckV := rfl
@[simp] theorem startDecode_bccAcc : (startDecode s).bccAcc = s.bccAcc := rfl
@[simp] theorem startDecode_bccIn : (startDecode s).bccIn = s.bccIn := rfl
@[simp] theorem startDecode_bccOut : (startDecode s).bccOut = s.bccOut := rfl
@[simp] theorem startDecode_bccOk : (startDecode s).bccOk = s.bccOk := rfl
@[simp] theorem startDecode_ackByte : (startDecode s).ackByte = s.ackByte := rfl
@[simp] theorem startDecode_ackV : (startDecode s).ackV = s.ackV := rfl
@[simp] theorem startDecode_rxOvf : (startDecode s).rxOvf = s.rxOvf := rfl
@[simp] theorem startDecode_strict : (startDecode s).strict = s.strict := rfl
@[simp] theorem startDecode_rxFill : (startDecode s).rxFill = s.rxFill := rfl
@[simp] theorem startDecode_call : (startDecode s).call = s.call := rfl
@[simp] theorem startDecode_op : (startDecode s).op = s.op := rfl
@[simp] theorem startDecode_inbox : (startDecode s).inbox = s.inbox := rfl
@[simp] theorem startDecode_wAns : (startDecode s).wAns = s.wAns := rfl
@[simp] theorem startDecode_rAns : (startDecode s).rAns = s.rAns := rfl
@[simp] theorem startDecode_pEpoch : (startDecode s).pEpoch = s.pEpoch := rfl
@[simp] theorem startDecode_freeCtr : (startDecode s).freeCtr = s.freeCtr := rfl
@[simp] theorem startDecode_hostData : (startDecode s).hostData = s.hostData := rfl
@[simp] theorem startDecode_trace : (startDecode s).trace = s.trace := rfl

end

section
variable (r : List Byte) (s : State)

@[simp] theorem readHeader_raddr : (readHeader r s).raddr = s.raddr := rfl
@[simp] theorem readHeader_rcm : (readHeader r s).rcm = s.rcm := rfl
@[simp] theorem readHeader_rpm : (readHeader r s).rpm = s.rpm := rfl
@[simp] theorem readHeader_plen : (readHeader r s).plen = s.plen := rfl
@[simp] theorem readHeader_p : (readHeader r s).p = s.p := rfl
@[simp] theorem readHeader_xstate : (readHeader r s).xstate = s.xstate := rfl
@[simp] theorem readHeader_txBuf : (readHeader r s).txBuf = s.txBuf := rfl
@[simp] theorem readHeader_txLen : (readHeader r s).txLen = s.txLen := rfl
@[simp] theorem readHeader_rxBuf : (readHeader r s).rxBuf = s.rxBuf := rfl
@[simp] theorem readHeader_rxLen : (readHeader r s).rxLen = s.rxLen := rfl
@[simp] theorem readHeader_rkind : (readHeader r s).rkind = s.rkind := rfl
@[simp] theorem readHeader_rlen : (readHeader r s).rlen = be16 (byteAt r 2) (byteAt r 3) := rfl
@[simp] theorem readHeader_rdisc : (readHeader r s).rdisc = byteAt r 4 := rfl
@[simp] theorem readHeader_rst0 : (readHeader r s).rst0 = s.rst0 := rfl
@[simp] theorem readHeader_rst1 : (readHeader r s).rst1 = s.rst1 := rfl
@[simp] theorem readHeader_rst2 : (readHeader r s).rst2 = s.rst2 := rfl
@[simp] theorem readHeader_re1 : (readHeader r s).re1 = s.re1 := rfl
@[simp] theorem readHeader_re0 : (readHeader r s).re0 = s.re0 := rfl
@[simp] theorem readHeader_rpoff : (readHeader r s).rpoff = s.rpoff := rfl
@[simp] theorem readHeader_rplen : (readHeader r s).rplen = s.rplen := rfl
@[simp] theorem readHeader_cfg : (readHeader r s).cfg = s.cfg := rfl
@[simp] theorem readHeader_err : (readHeader r s).err = s.err := rfl
@[simp] theorem readHeader_errInfo : (readHeader r s).errInfo = s.errInfo := rfl
@[simp] theorem readHeader_bccErr : (readHeader r s).bccErr = s.bccErr := rfl
@[simp] theorem readHeader_noAckV : (readHeader r s).noAckV = s.noAckV := rfl
@[simp] theorem readHeader_bccAcc : (readHeader r s).bccAcc = s.bccAcc := rfl
@[simp] theorem readHeader_bccIn : (readHeader r s).bccIn = s.bccIn := rfl
@[simp] theorem readHeader_bccOut : (readHeader r s).bccOut = s.bccOut := rfl
@[simp] theorem readHeader_bccOk : (readHeader r s).bccOk = s.bccOk := rfl
@[simp] theorem readHeader_ackByte : (readHeader r s).ackByte = s.ackByte := rfl
@[simp] theorem readHeader_ackV : (readHeader r s).ackV = s.ackV := rfl
@[simp] theorem readHeader_rxOvf : (readHeader r s).rxOvf = s.rxOvf := rfl
@[simp] theorem readHeader_strict : (readHeader r s).strict = s.strict := rfl
@[simp] theorem readHeader_rxFill : (readHeader r s).rxFill = s.rxFill := rfl
@[simp] theorem readHeader_call : (readHeader r s).call = s.call := rfl
@[simp] theorem readHeader_op : (readHeader r s).op = s.op := rfl
@[simp] theorem readHeader_inbox : (readHeader r s).inbox = s.inbox := rfl
@[simp] theorem readHeader_wAns : (readHeader r s).wAns = s.wAns := rfl
@[simp] theorem readHeader_rAns : (readHeader r s).rAns = s.rAns := rfl
@[simp] theorem readHeader_pEpoch : (readHeader r s).pEpoch = s.pEpoch := rfl
@[simp] theorem readHeader_freeCtr : (readHeader r s).freeCtr = s.freeCtr := rfl
@[simp] theorem readHeader_hostData : (readHeader r s).hostData = s.hostData := rfl
@[simp] theorem readHeader_trace : (readHeader r s).trace = s.trace := rfl

end

section
variable (o : Op) (s : State)

@[simp] theorem clearExchange_raddr : (clearExchange o s).raddr = s.raddr := rfl
@[simp] theorem clearExchange_rcm : (clearExchange o s).rcm = s.rcm := rfl
@[simp] theorem clearExchange_rpm : (clearExchange o s).rpm = s.rpm := rfl
@[simp] theorem clearExchange_plen : (clearExchange o s).plen = s.plen := rfl
@[simp] theorem clearExchange_p : (clearExchange o s).p = s.p := rfl
@[simp] theorem clearExchange_xstate : (clearExchange o s).xstate = s.xstate := rfl
@[simp] theorem clearExchange_txBuf : (clearExchange o s).txBuf = s.txBuf := rfl
@[simp] theorem clearExchange_txLen : (clearExchange o s).txLen = s.txLen := rfl
@[simp] theorem clearExchange_rxBuf : (clearExchange o s).rxBuf = s.rxBuf.forget := rfl
@[simp] theorem clearExchange_rxLen : (clearExchange o s).rxLen = 0#11 := rfl
@[simp] theorem clearExchange_rkind : (clearExchange o s).rkind = .none_ := rfl
@[simp] theorem clearExchange_rlen : (clearExchange o s).rlen = s.rlen := rfl
@[simp] theorem clearExchange_rdisc : (clearExchange o s).rdisc = s.rdisc := rfl
@[simp] theorem clearExchange_rst0 : (clearExchange o s).rst0 = s.rst0 := rfl
@[simp] theorem clearExchange_rst1 : (clearExchange o s).rst1 = s.rst1 := rfl
@[simp] theorem clearExchange_rst2 : (clearExchange o s).rst2 = s.rst2 := rfl
@[simp] theorem clearExchange_re1 : (clearExchange o s).re1 = s.re1 := rfl
@[simp] theorem clearExchange_re0 : (clearExchange o s).re0 = s.re0 := rfl
@[simp] theorem clearExchange_rpoff : (clearExchange o s).rpoff = s.rpoff := rfl
@[simp] theorem clearExchange_rplen : (clearExchange o s).rplen = s.rplen := rfl
@[simp] theorem clearExchange_cfg : (clearExchange o s).cfg = s.cfg := rfl
@[simp] theorem clearExchange_err : (clearExchange o s).err = .none_ := rfl
@[simp] theorem clearExchange_errInfo : (clearExchange o s).errInfo = 0x00#8 := rfl
@[simp] theorem clearExchange_bccErr : (clearExchange o s).bccErr = false := rfl
@[simp] theorem clearExchange_noAckV : (clearExchange o s).noAckV = false := rfl
@[simp] theorem clearExchange_bccAcc : (clearExchange o s).bccAcc = s.bccAcc := rfl
@[simp] theorem clearExchange_bccIn : (clearExchange o s).bccIn = s.bccIn := rfl
@[simp] theorem clearExchange_bccOut : (clearExchange o s).bccOut = s.bccOut := rfl
@[simp] theorem clearExchange_bccOk : (clearExchange o s).bccOk = s.bccOk := rfl
@[simp] theorem clearExchange_ackByte : (clearExchange o s).ackByte = 0x00#8 := rfl
@[simp] theorem clearExchange_ackV : (clearExchange o s).ackV = false := rfl
@[simp] theorem clearExchange_rxOvf : (clearExchange o s).rxOvf = false := rfl
@[simp] theorem clearExchange_strict : (clearExchange o s).strict = cfgStrict s := rfl
@[simp] theorem clearExchange_rxFill : (clearExchange o s).rxFill = 0#11 := rfl
@[simp] theorem clearExchange_call : (clearExchange o s).call = s.call := rfl
@[simp] theorem clearExchange_op : (clearExchange o s).op = o := rfl
@[simp] theorem clearExchange_inbox : (clearExchange o s).inbox = s.inbox := rfl
@[simp] theorem clearExchange_wAns : (clearExchange o s).wAns = s.wAns := rfl
@[simp] theorem clearExchange_rAns : (clearExchange o s).rAns = s.rAns := rfl
@[simp] theorem clearExchange_pEpoch : (clearExchange o s).pEpoch = s.pEpoch := rfl
@[simp] theorem clearExchange_freeCtr : (clearExchange o s).freeCtr = s.freeCtr := rfl
@[simp] theorem clearExchange_hostData : (clearExchange o s).hostData = s.hostData := rfl
@[simp] theorem clearExchange_trace : (clearExchange o s).trace = s.trace := rfl

end

end Sys2Proof.Machine
end

