-- ==== Sys2Proof/Laws/Exchange.lean ====
section
/-! SUPPORT. What the shared operations and the sequencer can do, said once: the storage of a byte, an accumulation, and
the induction over the transitions that every invariant of the block goes through. -/

namespace Sys2Proof.Machine

/-! ### Storage and accumulation -/

/-- Storing a byte does one of three things (42_exchange.md R154). -/
theorem storeByte_cases (b : Byte) (s : State) :
    (s.ackV = false ∧ storeByte b s = { s with ackByte := b, ackV := true }) ∨
      (s.ackV = true ∧ s.rxFill.toNat < Config.maxFrame ∧
        storeByte b s = { s with rxBuf := s.rxBuf.put s.rxFill.toNat b, rxFill := s.rxFill + 1#11 }) ∨
      (s.ackV = true ∧ Config.maxFrame ≤ s.rxFill.toNat ∧ storeByte b s = { s with rxOvf := true }) := by
  unfold storeByte
  split
  · exact .inl ⟨by assumption, rfl⟩
  · rename_i h
    have h' : s.ackV = true := by simpa using h
    split
    · exact .inr (.inl ⟨h', by assumption, rfl⟩)
    · exact .inr (.inr ⟨h', by omega, rfl⟩)

@[simp] theorem storeChunk_nil (s : State) : storeChunk [] s = s := rfl

@[simp] theorem storeChunk_cons (b : Byte) (bs : List Byte) (s : State) :
    storeChunk (b :: bs) s = storeChunk bs (storeByte b s) := rfl

/-- Chunk boundaries leave no trace in the stored bytes (42_exchange.md R162). -/
theorem storeChunk_append (bs cs : List Byte) (s : State) :
    storeChunk (bs ++ cs) s = storeChunk cs (storeChunk bs s) := by
  induction bs generalizing s with
  | nil => rfl
  | cons b bs ih => simp [ih]

@[simp] theorem accum_nil (s : State) : accum [] s = (.blocked, leaveR [] s) := rfl

@[simp] theorem accum_data (c : List Byte) (as : List RAnswer) (s : State) :
    accum (.data c :: as) s = accum as (storeChunk c (observe (.read (.data c)) s)) := rfl

@[simp] theorem accum_endOfStream (as : List RAnswer) (s : State) :
    accum (.endOfStream :: as) s = (.endOfStream, observe (.read .endOfStream) (leaveR as s)) := rfl

@[simp] theorem accum_err (as : List RAnswer) (s : State) :
    accum (.err :: as) s = (.err, observe (.read .err) (leaveR as s)) := rfl

/-! ### The induction over the sequencer -/

/-- A property that every primitive update of an exchange keeps. -/
structure KeptByExchange (P : State → Prop) : Prop where
  enter : ∀ x s, P s → P (setX x s)
  observed : ∀ o s, P s → P (observe o s)
  raise : ∀ f i s, P s → P (raise f i s)
  endOp : ∀ s, P s → P (endOp s)
  forget : ∀ s, P s → P (forgetReply s)
  store : ∀ b s, P s → P (storeByte b s)
  wTaken : ∀ w s, P s → P (leaveW w s)
  rTaken : ∀ r s, P s → P (leaveR r s)
  reading : ∀ c s, P s → P (setCall c s)
  checksum : ∀ ok s, P s → P (recordChecksum ok s)
  working : ∀ b s, P s → P (setBccAcc b s)
  noAckByte : ∀ s, P s → P (recordNoAckByte s)
  received : ∀ s, P s → P (storeReplyLength s)
  decode : ∀ r s, P s → P (decodeResponse r s)

namespace KeptByExchange

variable {P : State → Prop}

theorem failExchange (h : KeptByExchange P) (f : Err) (i : Byte) (x : XState) (s : State) (hs : P s) :
    P (failExchange f i x s) :=
  h.endOp _ (h.enter _ _ (h.raise _ _ _ hs))

theorem callWrite (h : KeptByExchange P) (b : List Byte) (c : Call) (s : State) (hs : P s) : P (callWrite b c s) :=
  h.reading _ _ (h.observed _ _ hs)

theorem storeChunk (h : KeptByExchange P) (bs : List Byte) (s : State) (hs : P s) : P (storeChunk bs s) := by
  induction bs generalizing s with
  | nil => exact hs
  | cons b bs ih => exact ih _ (h.store b s hs)

theorem accum (h : KeptByExchange P) (as : List RAnswer) (s : State) (hs : P s) : P (accum as s).2 := by
  induction as generalizing s with
  | nil => exact h.rTaken _ _ hs
  | cons a as ih =>
    cases a with
    | data c => exact ih _ (h.storeChunk _ _ (h.observed _ _ hs))
    | endOfStream => exact h.observed _ _ (h.rTaken _ _ hs)
    | err => exact h.observed _ _ (h.rTaken _ _ hs)

theorem handOver (h : KeptByExchange P) (s : State) (hs : P s) : P (handOver s) := by
  unfold Machine.handOver
  split
  · exact h.endOp _ (h.decode _ _ hs)
  · exact h.endOp _ hs

theorem awaitAckWrite (h : KeptByExchange P) (s : State) (hs : P s) : P (awaitAckWrite s) := by
  unfold Machine.awaitAckWrite
  split
  · exact hs
  · split
    · exact h.handOver _ (h.enter _ _ (h.wTaken _ _ hs))
    · exact h.failExchange _ _ _ _ (h.wTaken _ _ hs)

theorem acknowledge (h : KeptByExchange P) (s : State) (hs : P s) : P (acknowledge s) :=
  h.awaitAckWrite _ (h.callWrite _ _ _ (h.enter _ _ hs))

theorem checkReply (h : KeptByExchange P) (s : State) (hs : P s) : P (checkReply s) := by
  unfold Machine.checkReply
  have := h.checksum (bufferVerifies (rxReply s)) _ (h.working (bcc (bodyBytes (rxReply s))) s hs)
  split
  · exact h.failExchange _ _ _ _ this
  · exact h.acknowledge _ this

theorem replyComplete (h : KeptByExchange P) (s : State) (hs : P s) : P (replyComplete s) := by
  unfold Machine.replyComplete
  split
  · exact h.failExchange _ _ _ _ (h.forget _ hs)
  · split
    · exact h.failExchange _ _ _ _ (h.received _ hs)
    · exact h.checkReply _ (h.received _ hs)

theorem readFailed (h : KeptByExchange P) (s : State) (hs : P s) : P (readFailed s) :=
  h.failExchange _ _ _ _ (h.forget _ hs)

theorem awaitReply (h : KeptByExchange P) (s : State) (hs : P s) : P (awaitReply s) := by
  have := h.accum s.rAns s hs
  unfold Machine.awaitReply
  split <;> rename_i t ht <;> rw [ht] at this
  · exact this
  · exact h.readFailed _ this
  · exact h.replyComplete _ this

theorem ackReceived (h : KeptByExchange P) (s : State) (hs : P s) : P (ackReceived s) := by
  unfold Machine.ackReceived
  have := h.enter .awaitingReply _ (h.enter .ackReceived s hs)
  dsimp only
  split
  · exact h.awaitReply _ (h.reading _ _ this)
  · exact h.replyComplete _ this

theorem noAck (h : KeptByExchange P) (s : State) (hs : P s) : P (noAck s) :=
  h.failExchange _ _ _ _ (h.forget _ (h.noAckByte _ hs))

theorem firstByteTest (h : KeptByExchange P) (s : State) (hs : P s) : P (firstByteTest s) := by
  unfold Machine.firstByteTest
  split
  · exact h.ackReceived _ hs
  · exact h.noAck _ hs

theorem awaitAck (h : KeptByExchange P) (s : State) (hs : P s) : P (awaitAck s) := by
  have := h.accum s.rAns s hs
  unfold Machine.awaitAck
  split <;> rename_i t ht <;> rw [ht] at this
  · exact this
  · exact h.readFailed _ this
  · exact h.firstByteTest _ this

theorem awaitRequestWrite (h : KeptByExchange P) (s : State) (hs : P s) : P (awaitRequestWrite s) := by
  unfold Machine.awaitRequestWrite
  split
  · exact hs
  · split
    · exact h.awaitAck _ (h.reading _ _ (h.enter _ _ (h.enter _ _ (h.wTaken _ _ hs))))
    · exact h.failExchange _ _ _ _ (h.wTaken _ _ hs)

/-- An exchange keeps the property from the start actions on. -/
theorem startExchange (h : KeptByExchange P) (o : Op) (s : State) (hs : P (clearExchange o s)) :
    P (startExchange o s) :=
  h.awaitRequestWrite _ (h.callWrite _ _ _ hs)

/-- An operation that goes on keeps it. -/
theorem resume (h : KeptByExchange P) (s : State) (hs : P s) : P (resume s) := by
  unfold Machine.resume
  split
  · exact hs
  · exact h.awaitRequestWrite _ hs
  · exact h.awaitAck _ hs
  · exact h.awaitReply _ hs
  · exact h.awaitAckWrite _ hs

end KeptByExchange

/-! ### The induction over a step -/

/-- A property that every operation of the block and every event keeps. -/
structure KeptByMachine (P : State → Prop) : Prop extends KeptByExchange P where
  start : ∀ o s, P s → P (clearExchange o s)
  compute : ∀ s, P s → P (computeBcc s)
  verify : ∀ s, P s → P (verifyBcc s)
  encode : ∀ s, P s → P (encodeRequest s)
  write : ∀ w s, P s → w.missing = none → P (writeIdle w s)
  read : ∀ r s, P s → P (hostRead r s)
  reset : ∀ s, P s → P (resetBlock s)
  inbox : ∀ es s, P s → P (leaveInbox es s)

namespace KeptByMachine

variable {P : State → Prop}

theorem whenIdle (f : State → State) (hf : ∀ s, P s → P (f s)) (s : State) (hs : P s) : P (whenIdle f s) := by
  unfold Machine.whenIdle
  split
  · exact hf s hs
  · exact hs

theorem exchange (h : KeptByMachine P) (s : State) (hs : P s) : P (exchange s) := by
  unfold Machine.exchange
  split
  · exact hs
  · exact h.startExchange _ _ (h.start _ _ hs)

theorem transaction (h : KeptByMachine P) (s : State) (hs : P s) : P (transaction s) := by
  unfold Machine.transaction
  have := h.encode s hs
  dsimp only
  split
  · exact h.startExchange _ _ (h.start _ _ this)
  · exact this

/-- Every operation started through OPSEL keeps the property. -/
theorem opsel (h : KeptByMachine P) (c : BitVec 3) (s t : State) (hs : P s)
    (ht : exec (decodeOpsel c) s = .next t) : P t := by
  unfold decodeOpsel at ht
  split at ht <;> cases ht
  · exact hs
  · exact whenIdle _ h.compute s hs
  · exact whenIdle _ h.verify s hs
  · exact whenIdle _ h.encode s hs
  · exact whenIdle _ (fun s hs => h.decode _ _ hs) s hs
  · exact whenIdle _ h.exchange s hs
  · exact whenIdle _ h.transaction s hs
  · exact hs

/-- A step keeps the property. -/
theorem step (h : KeptByMachine P) (s t : State) (hs : P s) (ht : step s = .next t) : P t := by
  unfold Machine.step nextStep at ht
  split at ht
  · cases ht
    exact h.resume s hs
  · rename_i e es he
    have hs' : P (leaveInbox es s) := h.inbox es s hs
    cases e with
    | opsel c => exact h.opsel c _ t hs' ht
    | write w =>
      obtain ⟨_, hm, rfl⟩ | ⟨_, rfl⟩ := hostWrite_cases w _ t ht
      · exact h.write w _ hs' hm
      · exact hs'
    | read r => cases ht; exact h.read _ _ hs'
    | reset => cases ht; exact h.reset _ hs'
    | wAnswer a => cases ht; exact h.resume _ (h.wTaken _ _ hs')
    | rAnswer a => cases ht; exact h.resume _ (h.rTaken _ _ hs')

end KeptByMachine

end Sys2Proof.Machine
end

