-- ==== Sys2Proof/Laws/PerInstr.lean ====
section
/-! SUPPORT. Statements about every instruction as syntax, one lemma per constructor. -/

namespace Sys2Proof.Laws.EncodeLength

/-- A well-formed frame has 5 to 1024 bytes (00_scope.md R9, 41_frame_codec.md R132); a token and an OPSEL code have
one (30_encoding.md R88, R92). -/
def Statement (i : Instr) : Prop :=
  i.wellFormed = true →
    (i.port = .frame → 5 ≤ (encode i).length ∧ (encode i).length ≤ 1024) ∧
      (i.port ≠ .frame → (encode i).length = 1)

/-- The frame rows from their size bound. -/
theorem of_fits (stx addr : Byte) (len : Word16) (marker : Byte) (body : List Byte) (h : fitsFrame body = true) :
    5 ≤ (frameBytes stx addr len marker body).length ∧ (frameBytes stx addr len marker body).length ≤ 1024 := by
  rw [frameBytes_length]
  exact ⟨Nat.le_add_right 5 _, of_decide_eq_true h⟩

theorem req (addr : Byte) (len : Word16) (body : List Byte) : Statement (.req addr len body) := by
  intro h
  simp only [Instr.wellFormed, Bool.and_eq_true] at h
  exact ⟨fun _ => of_fits _ _ _ _ _ h.1.1.1.1, fun hp => absurd rfl hp⟩

theorem rspPos (stx addr : Byte) (len : Word16) (body : List Byte) : Statement (.rspPos stx addr len body) :=
  fun h => ⟨fun _ => of_fits _ _ _ _ _ h, fun hp => absurd rfl hp⟩

theorem rspNeg (stx addr : Byte) (len : Word16) (body : List Byte) : Statement (.rspNeg stx addr len body) :=
  fun h => ⟨fun _ => of_fits _ _ _ _ _ h, fun hp => absurd rfl hp⟩

theorem rspNegAlt (stx addr : Byte) (len : Word16) (body : List Byte) : Statement (.rspNegAlt stx addr len body) :=
  fun h => ⟨fun _ => of_fits _ _ _ _ _ h, fun hp => absurd rfl hp⟩

theorem ack : Statement .ack := fun _ => ⟨nofun, fun _ => rfl⟩

theorem nak : Statement .nak := fun _ => ⟨nofun, fun _ => rfl⟩

theorem eot : Statement .eot := fun _ => ⟨nofun, fun _ => rfl⟩

theorem none_ : Statement .none_ := fun _ => ⟨nofun, fun _ => rfl⟩

theorem bccCompute : Statement .bccCompute := fun _ => ⟨nofun, fun _ => rfl⟩

theorem bccVerify : Statement .bccVerify := fun _ => ⟨nofun, fun _ => rfl⟩

theorem encReq : Statement .encReq := fun _ => ⟨nofun, fun _ => rfl⟩

theorem decRsp : Statement .decRsp := fun _ => ⟨nofun, fun _ => rfl⟩

theorem xchg : Statement .xchg := fun _ => ⟨nofun, fun _ => rfl⟩

theorem transact : Statement .transact := fun _ => ⟨nofun, fun _ => rfl⟩

theorem reserved7 : Statement .reserved7 := fun _ => ⟨nofun, fun _ => rfl⟩

end Sys2Proof.Laws.EncodeLength
end

