-- ==== Sys2Proof/Laws/Session.lean ====
section
/-! SUPPORT. What a named operation presents (43_session.md R192, 10_state.md R22). -/

namespace Sys2Proof.Machine

/-- PLEN takes the presented length without wrapping. -/
theorem plen_of_presentedLength (bytes : List Byte) :
    (BitVec.ofNat 16 (presentedLength bytes)).toNat = presentedLength bytes := by
  rw [BitVec.toNat_ofNat]
  exact Nat.mod_eq_of_lt (by unfold presentedLength; omega)

/-- A payload that can be presented is presented whole. -/
theorem presented_whole (bytes : List Byte) (h : bytes.length < 2 ^ 16) :
    presentedLength bytes = bytes.length ∧ bytes.take (presentedLength bytes) = bytes := by
  have he : presentedLength bytes = bytes.length := by unfold presentedLength; omega
  exact ⟨he, by rw [he, List.take_length]⟩

/-- The presented bytes are as many as PLEN says, and the payload port takes them. -/
theorem presented_length (bytes : List Byte) :
    (bytes.take (presentedLength bytes)).length = presentedLength bytes ∧ presentedLength bytes < 2 ^ 16 := by
  constructor
  · rw [List.length_take]
    unfold presentedLength
    omega
  · unfold presentedLength
    omega

/-- A payload is too large to frame exactly when its presented length is (41_frame_codec.md R122; 92_eei_decisions.md
D2). -/
theorem presented_too_large (bytes : List Byte) :
    Config.maxPayload < presentedLength bytes ↔ Config.maxPayload < bytes.length := by
  unfold presentedLength Config.maxPayload Config.maxFrame
  omega

end Sys2Proof.Machine
end

