-- ==== Sys2Proof/Tests/Slice0.lean ====
section
/-! SUPPORT. Tests: words written out from the spec, its vectors (95_test_vectors.md), the WellFormed smoke test, and for
every statement with hypotheses a state and operands that meet them. -/

namespace Sys2Proof.Tests

open Sys2Proof Sys2Proof.Machine Sys2Proof.Safety

/-! ### Helpers -/

/-- The next state, if there is one. -/
def nextOf (o : Host.Outcome State Fault Refusal) : Option State :=
  match o with
  | .next s => some s
  | .fault _ => none
  | .refused _ => none

/-- A property of the next state. -/
def after (o : Host.Outcome State Fault Refusal) (p : State → Bool) : Bool :=
  match nextOf o with
  | some s => p s
  | none => false

/-- The request of V-ENC-1. -/
def frame1 : List Byte := [0xF2#8, 0x00#8, 0x00#8, 0x03#8, 0x43#8, 0x31#8, 0x30#8, 0x03#8, 0xB0#8]

/-- The positive reply of V-DEC-1. -/
def pos : List Byte :=
  [0xF2#8, 0x00#8, 0x00#8, 0x06#8, 0x50#8, 0x31#8, 0x30#8, 0x32#8, 0x32#8, 0x30#8, 0x03#8, 0x96#8]

/-- The negative reply of V-DEC-3. -/
def neg : List Byte :=
  [0xF2#8, 0x00#8, 0x00#8, 0x05#8, 0x45#8, 0x31#8, 0x31#8, 0x30#8, 0x30#8, 0x03#8, 0xB1#8]

/-- V-BCC-17: `pos` with one status byte changed. -/
def bad : List Byte :=
  [0xF2#8, 0x00#8, 0x00#8, 0x06#8, 0x50#8, 0x31#8, 0x30#8, 0x30#8, 0x32#8, 0x30#8, 0x03#8, 0x96#8]

/-- The reset state with the operands of V-ENC-1 and a transport script. -/
def operands (w : List WAnswer) (r : List RAnswer) : State :=
  { State.reset with rcm := 0x31#8, rpm := 0x30#8, wAns := w, rAns := r }

/-- The state of 95_test_vectors.md section 5: the request of V-ENC-1 is encoded. -/
def encoded (w : List WAnswer) (r : List RAnswer) : State :=
  { operands w r with txBuf := State.reset.txBuf.holding frame1, txLen := 9#11 }

/-- The reset state with a reply buffer loaded by the host. -/
def loaded (bs : List Byte) : State :=
  { State.reset with rxBuf := State.reset.rxBuf.holding bs, rxLen := BitVec.ofNat 11 bs.length }

/-- An exchange blocked in its first accumulation, this byte accumulated. -/
def waiting (b : Byte) : State :=
  { encoded [] [] with xstate := .awaitingAck, call := .readAck, op := .xchg, ackByte := b, ackV := true }

/-- The same before any byte arrived. -/
def listening : State := { encoded [] [] with xstate := .awaitingAck, call := .readAck, op := .xchg }

/-- A state with something next in its inbox. -/
def facing (e : Event) (s : State) : State := { s with inbox := [e] }

/-! ### WellFormed: an ill-formed term for each check -/

theorem test_wf_request : (requestInstr 0x00#8 0x31#8 0x30#8 [0xAA#8]).wellFormed = true := by decide

theorem test_wf_refuses_missing_trailer : (Instr.req 0x00#8 2#16 [0x31#8, 0x30#8, 0x03#8]).wellFormed = false := by decide

theorem test_wf_refuses_wrong_len :
    (Instr.req 0x00#8 4#16 [0x31#8, 0x30#8, 0x03#8, 0xB7#8]).wellFormed = false := by decide

theorem test_wf_refuses_wrong_etx :
    (Instr.req 0x00#8 3#16 [0x31#8, 0x30#8, 0x04#8, 0xB7#8]).wellFormed = false := by decide

theorem test_wf_refuses_wrong_bcc :
    (Instr.req 0x00#8 3#16 [0x31#8, 0x30#8, 0x03#8, 0xB1#8]).wellFormed = false := by decide

theorem test_wf_refuses_oversize : fitsFrame (List.replicate 1020 0x00#8) = false := by
  rw [fitsFrame, List.length_replicate]; decide

theorem test_wf_oversize_reply (stx a : Byte) (len : Word16) :
    (Instr.rspPos stx a len (List.replicate 1020 0x00#8)).wellFormed = false := test_wf_refuses_oversize

/-! ### Decoding: words written out from 30_encoding.md R83 to R92 -/

theorem test_decode_req : decode .frame frame1 = .ok (requestInstr 0x00#8 0x31#8 0x30#8 []) := by decide

theorem test_decode_rspPos :
    decode .frame pos = .ok (.rspPos 0xF2#8 0x00#8 6#16 [0x31#8, 0x30#8, 0x32#8, 0x32#8, 0x30#8, 0x03#8, 0x96#8]) := by
  decide

theorem test_decode_rspNeg :
    decode .frame neg = .ok (.rspNeg 0xF2#8 0x00#8 5#16 [0x31#8, 0x31#8, 0x30#8, 0x30#8, 0x03#8, 0xB1#8]) := by decide

/-- V-DEC-4. -/
theorem test_decode_rspNegAlt :
    decode .frame [0xF2#8, 0x00#8, 0x00#8, 0x07#8, 0x4E#8, 0x32#8, 0x41#8, 0x30#8, 0x31#8, 0x55#8, 0x66#8, 0x03#8, 0xF9#8]
      = .ok (.rspNegAlt 0xF2#8 0x00#8 7#16 [0x32#8, 0x41#8, 0x30#8, 0x31#8, 0x55#8, 0x66#8, 0x03#8, 0xF9#8]) := by decide

theorem test_decode_len_high_byte :
    decode .frame [0xF2#8, 0x00#8, 0x03#8, 0xFA#8, 0x50#8] = .ok (.rspPos 0xF2#8 0x00#8 1018#16 []) := by decide

theorem test_decode_tokens :
    decode .token [0b00000110#8] = .ok .ack ∧ decode .token [0b00010101#8] = .ok .nak ∧
      decode .token [0b00000100#8] = .ok .eot := by decide

theorem test_decode_opsel :
    [0, 1, 2, 3, 4, 5, 6, 7].map (fun c => decode .command [BitVec.ofNat 8 c]) =
      [.ok .none_, .ok .bccCompute, .ok .bccVerify, .ok .encReq, .ok .decRsp, .ok .xchg, .ok .transact,
        .ok .reserved7] := by decide

theorem test_decode_rejects :
    decode .frame [0xF2#8, 0x00#8, 0x00#8, 0x06#8] = .error .tooShort ∧
      decode .frame [0xF2#8, 0x00#8, 0x00#8, 0x06#8, 0x51#8] = .error (.unknownDiscriminator 0x51#8) ∧
      decode .frame [0x00#8, 0x00#8, 0x00#8, 0x06#8, 0x43#8] = .error (.unknownDiscriminator 0x43#8) ∧
      decode .token [0x07#8] = .error (.notAToken 0x07#8) ∧
      decode .command [0x08#8] = .error (.notACode 0x08#8) ∧ decode .token [] = .error .notOneByte := by decide

/-- 30_encoding.md R99: the rows as spec/opcode_table.json numbers them. -/
theorem test_table_words :
    decodeTableWord 40 0xF200000043 = some (.req 0x00#8 0#16 [0x00#8]) ∧
      decodeTableWord 8 0x50 = some (.rspPos 0x00#8 0x00#8 0#16 [0x00#8]) ∧
      decodeTableWord 40 0x45 = some (.rspNeg 0x00#8 0x00#8 0#16 [0x00#8]) ∧
      decodeTableWord 8 0x4E = some (.rspNegAlt 0x00#8 0x00#8 0#16 [0x00#8]) ∧
      decodeTableWord 8 0x15 = some .nak ∧ decodeTableWord 8 5 = some .xchg := by decide

/-- 30_encoding.md R99: a token row has 8 bits, an operation row 3. -/
theorem test_table_widths :
    decodeTableWord 8 0x06 = some .ack ∧ decodeTableWord 3 6 = some .transact ∧
      decodeTableWord 8 0x04 = some .eot ∧ decodeTableWord 3 4 = some .decRsp := by decide

/-! ### One step of each instruction -/

/-- V-BCC-5. -/
theorem test_bcc_compute :
    after (exec .bccCompute { State.reset with p := frame1.take 8, plen := 8#16 }) (fun t => t.bccOut == 0xB0#8) = true := by
  decide

/-- V-BCC-12 and V-BCC-13. -/
theorem test_bcc_verify :
    after (exec .bccVerify { State.reset with p := frame1.take 8, plen := 8#16, bccIn := 0xB0#8 }) (fun t => t.bccOk) = true ∧
      after (exec .bccVerify { State.reset with p := frame1.take 8, plen := 8#16, bccIn := 0xB1#8 })
        (fun t => !t.bccOk && t.bccOut == 0xB0#8) = true := by decide

/-- V-ENC-1. -/
theorem test_enc_req : after (exec .encReq (operands [] [])) (fun t => txFrame t == frame1) = true := by decide

/-- V-ENC-4: payload bytes 03 and F2 go out unescaped. -/
theorem test_enc_req_payload :
    after (exec .encReq { State.reset with
        raddr := 0x01#8, rcm := 0x32#8, rpm := 0x31#8, p := [0x03#8, 0xF2#8], plen := 2#16 })
      (fun t => txFrame t ==
        [0xF2#8, 0x01#8, 0x00#8, 0x05#8, 0x43#8, 0x32#8, 0x31#8, 0x03#8, 0xF2#8, 0x03#8, 0x44#8]) = true := by decide

/-- V-DEC-1. -/
theorem test_dec_rsp_positive :
    after (exec .decRsp (loaded pos))
      (fun t => t.rkind == .positive && t.rst0 == 0x32#8 && t.rst2 == 0x30#8 && t.rplen == 0#11 && t.err == .none_)
      = true := by decide

/-- V-DEC-10: the huge LEN is not used. -/
theorem test_dec_rsp_unknown :
    after (exec .decRsp (loaded [0xFF#8, 0xFF#8, 0xFF#8, 0xFF#8, 0x00#8]))
      (fun t => t.err == .unknownResponseType && t.errInfo == 0x00#8 && t.rlen == 0xFFFF#16) = true := by decide

/-- V-DEC-9. -/
theorem test_req_handed_to_decoder :
    after (exec (requestInstr 0x00#8 0x31#8 0x30#8 []) State.reset)
      (fun t => t.err == .unknownResponseType && t.errInfo == 0x43#8 && t.rlen == 3#16) = true := by decide

/-- V-DEC-2: a payload of two bytes. -/
theorem test_rsp_pos :
    after (exec (.rspPos 0xF2#8 0x00#8 8#16
        [0x31#8, 0x30#8, 0x30#8, 0x30#8, 0x30#8, 0xDE#8, 0xAD#8, 0x03#8, 0xEB#8]) State.reset)
      (fun t => t.rkind == .positive && t.rst1 == 0x30#8 && t.rpoff == 10#11 && t.rplen == 2#11) = true := by decide

/-- V-DEC-13: LEN below the header. -/
theorem test_rsp_pos_truncated :
    after (exec (.rspPos 0xF2#8 0x00#8 5#16 [0x01#8, 0x02#8, 0x03#8, 0x04#8, 0x05#8, 0x06#8, 0x07#8, 0x08#8]) State.reset)
      (fun t => t.rkind == .none_ && t.err == .truncatedFrame && t.rdisc == 0x50#8) = true := by decide

/-- V-DEC-3: code "10". -/
theorem test_rsp_neg :
    after (exec (.rspNeg 0xF2#8 0x00#8 5#16 [0x31#8, 0x31#8, 0x30#8, 0x30#8, 0x03#8, 0xB1#8]) State.reset)
      (fun t => t.err == .deviceError && t.re1 == 0x31#8 && t.re0 == 0x30#8 && t.rpoff == 9#11 && t.rplen == 0#11)
      = true := by decide

/-- V-DEC-4: the alternate marker, code "A0". -/
theorem test_rsp_neg_alt :
    after (exec (.rspNegAlt 0xF2#8 0x00#8 7#16 [0x32#8, 0x41#8, 0x30#8, 0x31#8, 0x55#8, 0x66#8, 0x03#8, 0xF9#8])
        State.reset)
      (fun t => t.err == .deviceError && t.re1 == 0x41#8 && t.rdisc == 0x4E#8 && t.rplen == 2#11) = true := by decide

/-- V-X-1. -/
theorem test_xchg_done :
    after (exec .xchg (encoded [.ok 9, .ok 1] [.data [0x06#8], .endOfStream, .data pos, .endOfStream]))
      (fun t => t.xstate == .done && rxReply t == pos && writesOf t.trace == [frame1, [0x06#8]]) = true := by decide

/-- V-X-11: strict mode keeps the bad reply and writes nothing back. -/
theorem test_xchg_strict_mismatch :
    after (exec .xchg (encoded [.ok 9] [.data [0x06#8], .endOfStream, .data bad, .endOfStream]))
      (fun t => t.xstate == .failDecode && t.err == .checksumMismatch && t.bccErr && writesOf t.trace == [frame1])
      = true := by decide

/-- P2: the negative reply coalesced with the ACK. -/
theorem test_transact_device_error :
    after (exec .transact (operands [.ok 9, .ok 1] [.data (0x06#8 :: neg), .endOfStream]))
      (fun t => t.xstate == .done && t.err == .deviceError && t.re1 == 0x31#8 && t.rkind == .negative) = true := by decide

/-- P10: a reply cut short in lenient mode. -/
theorem test_transact_truncated :
    after (exec .transact { operands [.ok 9, .ok 1]
        [.data [0x06#8], .endOfStream, .data (pos.take 9), .endOfStream] with cfg := 0x00#8 })
      (fun t => t.xstate == .done && t.err == .truncatedFrame && t.bccErr && t.rxLen == 9#11) = true := by decide

/-- 42_exchange.md R161: ACK ends the acknowledge phase. -/
theorem test_ack :
    after (exec .ack (waiting 0x06#8)) (fun t => t.xstate == .awaitingReply && t.call == .readReply) = true := by decide

/-- V-X-3. -/
theorem test_nak :
    after (exec .nak (waiting 0x15#8)) (fun t => t.xstate == .failNoAck && t.errInfo == 0x15#8 && t.noAckV) = true := by
  decide

/-- 42_exchange.md R177. -/
theorem test_eot :
    after (exec .eot (waiting 0x04#8)) (fun t => t.err == .noAck && t.errInfo == 0x04#8) = true := by decide

/-- 30_encoding.md R92. -/
theorem test_none_reserved : exec .none_ State.reset = .next State.reset ∧ exec .reserved7 State.reset = .next State.reset :=
  ⟨rfl, rfl⟩

/-! ### The step and the placing of table words -/

theorem test_step_runs_placed_code :
    after (step (State.reset.withFetchWord 8 3)) (fun t => t.txLen == 9#11 && t.err == .none_) = true := by decide

theorem test_step_runs_placed_frame :
    after (step (State.reset.withFetchWord 8 0x50)) (fun t => t.rdisc == 0x50#8 && t.err == .truncatedFrame) = true := by
  decide

theorem test_step_runs_placed_token :
    after (step (State.reset.withFetchWord 8 0x15)) (fun t => t.xstate == .failNoAck && t.errInfo == 0x15#8) = true := by
  decide

/-- 60_exceptions.md R205, 43_session.md R195: the same failure from the sequencer and from the decoder. -/
theorem test_result_reads_xstate :
    result { State.reset with xstate := .failDecode, err := .truncatedFrame } = .replyRejected .truncatedFrame ∧
      result { State.reset with xstate := .done, err := .truncatedFrame } = .truncatedReply true ∧
      result { State.reset with xstate := .done } = .notDecoded ∧ result State.reset = .noResult := by decide

/-- 10_state.md R39: a busy block refuses a write at any index. -/
theorem test_busy_write_is_refused :
    after (step (facing (.write (.rxBuf 1024 0x55#8)) listening)) (fun t => t.rxBuf == listening.rxBuf) = true := by decide

/-- 10_state.md R39: XSTATE is readable while the exchange waits. -/
theorem test_poll_xstate :
    after (step (facing (.read (.reg .xstate)) listening)) (fun t => t.hostData == 2#16 && t.call == .readAck) = true := by
  decide

/-- 70_reset_and_hazards.md R232: reset leaves a busy state. -/
theorem test_reset_while_busy : after (step (facing .reset listening)) (fun t => t.isIdle && t.txLen == 0#11) = true := by
  decide

/-! ### Witnesses: each statement's hypotheses are met -/

theorem witness_DecodeOfEncodeIsTheInstruction :
    (requestInstr 0x00#8 0x31#8 0x30#8 []).wellFormed = true ∧ (Instr.rspPos 0x00#8 0x00#8 0#16 []).wellFormed = true := by
  decide

theorem witness_EncodeOfDecodeIsTheBytes : decode .token [0x04#8] = .ok .eot := by decide

theorem witness_WellFormedRequestsAreTheEncodersFrames :
    ([0xAA#8] : List Byte).length ≤ Config.maxPayload ∧
      (Instr.req 0x00#8 3#16 [0x31#8, 0x30#8, 0x03#8, 0xB0#8]).wellFormed = true := by decide

theorem witness_WellFormedRequestsAreTheEncodersFrames_largest :
    (List.replicate 1015 0x00#8 : List Byte).length ≤ Config.maxPayload := by
  rw [List.length_replicate]; decide

theorem witness_LenFieldIsBigEndian :
    5 + ([] : List Byte).length ≤ Config.maxFrame ∧ 5 + (List.replicate 1019 0x00#8 : List Byte).length ≤ Config.maxFrame := by
  rw [List.length_replicate]; decide

theorem witness_ChecksumIsBitwiseParity : 7 < 8 ∧ ([0x01#8, 0x02#8] : List Byte).Perm [0x02#8, 0x01#8] := by decide

theorem witness_ChecksumDetectsOddErrors :
    ([0x00#8, 0x01#8] : List Byte).length = ([0x05#8, 0x06#8] : List Byte).length ∧
      1 < ([0x05#8, 0x06#8] : List Byte).length ∧ (0x80#8 : Byte) ≠ 0x00#8 := by decide

theorem witness_BufferVerifiesExactlyWhenItsChecksumIsZero : ([0x00#8] : List Byte) ≠ [] := by decide

/-- The statements whose only hypothesis is an idle block: BccComputeWritesTheExclusiveOr,
BccVerifyComparesWithBccIn, RequestHandedToTheDecoderIsUnknown and others. -/
theorem witness_idle_block : State.reset.isIdle = true ∧ (loaded pos).isIdle = true ∧ (encoded [] []).isIdle = true := by
  decide

theorem witness_BccComputeWritesTheExclusiveOr : State.reset.isIdle = true ∧ State.reset.p.length = State.reset.plen.toNat := by
  decide

theorem witness_BccVerifyComparesWithBccIn : State.reset.isIdle = true := by decide

theorem witness_RefusedStartsChangeNothing :
    Instr.port .xchg ≠ .token ∧ listening.isIdle = false ∧ State.reset.txLen = 0#11 := by decide

theorem witness_EncReqWritesTheRequestFrame :
    (operands [] []).isIdle = true ∧ { operands [] [] with plen := 1015#16 }.plen.toNat ≤ 1015 ∧
      { operands [] [] with plen := 1015#16 }.isIdle = true := by decide

theorem witness_EncodedFramesVerify :
    (operands [] []).isIdle = true ∧ (operands [] []).plen.toNat ≤ 1015 ∧
      (nextOf (exec .encReq (operands [] []))).isSome = true := by decide

theorem witness_EncReqRefusesExactlyTheTooLarge :
    { State.reset with plen := 1016#16 }.isIdle = true ∧ 1016 ≤ { State.reset with plen := 1016#16 }.plen.toNat ∧
      { State.reset with plen := 1015#16 }.plen.toNat ≤ 1015 := by decide

/-- The clauses of DecRspOutcomes in order; the first is met only by a state no run reaches. -/
theorem witness_DecRspOutcomes_too_large :
    { State.reset with rxLen := 1025#11 }.isIdle = true ∧ 1024 < { State.reset with rxLen := 1025#11 }.rxLen.toNat := by
  decide

theorem witness_DecRspOutcomes_short : (loaded (pos.take 4)).isIdle = true ∧ (loaded (pos.take 4)).rxLen.toNat < 5 := by
  decide

theorem witness_DecRspOutcomes_unknown :
    (loaded (frame1.take 5)).isIdle = true ∧ 5 ≤ (loaded (frame1.take 5)).rxLen.toNat ∧
      (loaded (frame1.take 5)).rxLen.toNat ≤ 1024 ∧ (loaded (frame1.take 5)).rxBuf.get .rx 4 = 0x43#8 := by decide

theorem witness_DecRspOutcomes_positive_truncated :
    (loaded (pos.take 9)).rxLen.toNat < 6 + 4 ∧ (loaded (pos.take 9)).rxBuf.get .rx 4 = 0x50#8 ∧
      (loaded (pos.take 9)).rxBuf.get .rx 3 = 0x06#8 ∧ (loaded (pos.take 9)).isIdle = true := by decide

theorem witness_DecRspOutcomes_negative_truncated :
    (loaded (neg.take 8)).rxLen.toNat < 5 + 4 ∧ (loaded (neg.take 8)).rxBuf.get .rx 4 = 0x45#8 ∧
      (loaded (neg.take 8)).rxBuf.get .rx 3 = 0x05#8 ∧ (loaded (neg.take 8)).isIdle = true := by decide

theorem witness_DecRspOutcomes_positive :
    (loaded (pos.take 10)).rxLen.toNat = 6 + 4 ∧ (loaded (pos.take 10)).rxBuf.get .rx 4 = 0x50#8 ∧
      be16 ((loaded (pos.take 10)).rxBuf.get .rx 2) ((loaded (pos.take 10)).rxBuf.get .rx 3) = 6#16 ∧
      (loaded (pos.take 10)).isIdle = true := by decide

theorem witness_DecRspOutcomes_negative :
    (loaded (neg.take 9)).rxLen.toNat = 5 + 4 ∧ (loaded (neg.take 9)).rxBuf.get .rx 4 = 0x45#8 ∧
      be16 ((loaded (neg.take 9)).rxBuf.get .rx 2) ((loaded (neg.take 9)).rxBuf.get .rx 3) = 5#16 ∧
      (loaded (neg.take 9)).isIdle = true := by decide

theorem witness_PositiveReplyIsDecoded :
    State.reset.isIdle = true ∧ 5 + (List.replicate 5 0x31#8 : List Byte).length ≤ 1024 ∧ 6 ≤ (6#16 : Word16).toNat ∧
      (6#16 : Word16).toNat ≤ (List.replicate 5 0x31#8 : List Byte).length + 1 := by decide

theorem witness_NegativeReplyIsDeviceError :
    State.reset.isIdle = true ∧ 5 + (List.replicate 4 0x31#8 : List Byte).length ≤ 1024 ∧ 5 ≤ (5#16 : Word16).toNat ∧
      (5#16 : Word16).toNat ≤ (List.replicate 4 0x31#8 : List Byte).length + 1 := by decide

theorem witness_RequestHandedToTheDecoderIsUnknown :
    State.reset.isIdle = true ∧ 5 + ([] : List Byte).length ≤ 1024 ∧ ([] : List Byte).length ≤ 1015 := by decide

theorem witness_RepliesOutOfBoundsAreTruncated :
    State.reset.isIdle = true ∧ (5#16 : Word16).toNat < 6 ∧ (4#16 : Word16).toNat < 5 ∧
      ([] : List Byte).length + 1 < (6#16 : Word16).toNat ∧ 5 + ([] : List Byte).length ≤ 1024 := by decide

theorem witness_RepliesOutOfBoundsAreTruncated_too_large :
    State.reset.isIdle = true ∧ 1024 < 5 + (List.replicate 1020 0x00#8 : List Byte).length := by
  rw [List.length_replicate]; decide

theorem witness_DecRspRunsTheFrameItFinds :
    decodeFrame (rxReply (loaded frame1)) = .ok (requestInstr 0x00#8 0x31#8 0x30#8 []) := by decide

theorem witness_DecRspIsRepeatable :
    (loaded pos).isIdle = true ∧ (nextOf (exec .decRsp (loaded pos))).isSome = true := by decide

/-- Two replies that differ only where the decoder does not look: V-DEC-1 and the same with other bytes at 0, 1, 5, 6, 10
and 11. -/
theorem witness_DecoderReadsOnlyItsFields :
    let r : List Byte := [0x00#8, 0x07#8, 0x00#8, 0x06#8, 0x50#8, 0x99#8, 0x98#8, 0x32#8, 0x32#8, 0x30#8, 0x77#8, 0x78#8]
    pos.length = r.length ∧ byteAt pos 2 = byteAt r 2 ∧ byteAt pos 3 = byteAt r 3 ∧ byteAt pos 4 = byteAt r 4 ∧
      byteAt pos 7 = byteAt r 7 ∧ byteAt pos 8 = byteAt r 8 ∧ byteAt pos 9 = byteAt r 9 ∧ ¬byteAt pos 4 = EMT ∧
      ¬byteAt pos 4 = EMT_ALT := by decide

theorem witness_DeviceErrorExactlyWhenNegative :
    (loaded neg).isIdle = true ∧ (nextOf (exec .decRsp (loaded neg))).isSome = true := by decide

/-- The rows of the table of typed results that differ in XSTATE or TXLEN. -/
theorem witness_TextTablesHoldTheGivenEntries :
    { State.reset with err := .deviceError }.err = .deviceError ∧
      after (exec .decRsp { loaded pos with xstate := .done })
        (fun t => t.xstate == .done && t.err == .none_ && t.rkind == .positive) = true ∧
      after (exec .xchg (encoded [.ok 9] [.data [0x06#8], .endOfStream, .endOfStream]))
        (fun t => t.xstate == .failDecode && t.txLen != 0#11 && t.err == .truncatedFrame) = true ∧
      after (exec .encReq { State.reset with plen := 1016#16 }) (fun t => t.txLen == 0#11 && t.err == .frameTooLarge)
        = true := by decide

theorem witness_XchgRefinesTheLogicalExchange : (encoded [] []).isIdle = true ∧ (encoded [] []).txLen ≠ 0#11 := by decide

theorem witness_XchgLeavesTheRestUnchanged : (nextOf (exec .xchg (encoded [.err] []))).isSome = true := by decide

theorem witness_XchgReachesDone :
    let s := encoded [.ok 9, .ok 1] [.data [0x06#8], .endOfStream, .data pos, .endOfStream]
    s.isIdle = true ∧ s.txLen ≠ 0#11 ∧ s.wAns = .ok s.txLen.toNat :: .ok 1 :: [] ∧
      gather s.rAns = (.endOfStream, [ACK], [.data pos, .endOfStream]) ∧
      gather [.data pos, .endOfStream] = (.endOfStream, pos, []) ∧ pos ≠ [] ∧ pos.length ≤ 1024 ∧
      bufferVerifies pos = true := by decide

theorem witness_CoalescedReplyReachesDone :
    let s := { encoded [.ok 9, .ok 1] [.data (0x06#8 :: bad), .endOfStream] with cfg := 0x00#8 }
    s.isIdle = true ∧ s.txLen ≠ 0#11 ∧ s.wAns = .ok s.txLen.toNat :: .ok 1 :: [] ∧
      gather s.rAns = (.endOfStream, ACK :: bad, []) ∧ bad ≠ [] ∧ bad.length ≤ 1024 ∧ cfgStrict s = false := by decide

theorem witness_FirstByteOtherThanAckIsNoAck :
    let s := encoded [.ok 9] [.endOfStream]
    s.isIdle = true ∧ s.txLen ≠ 0#11 ∧ s.wAns = .ok s.txLen.toNat :: [] ∧ gather s.rAns = (.endOfStream, [], []) ∧
      ([] : List Byte).head? ≠ some ACK ∧ ([0x15#8] : List Byte).head? ≠ some ACK := by decide

theorem witness_StrictMismatchEndsTheExchange :
    let s := encoded [.ok 9] [.data (0x06#8 :: bad), .endOfStream]
    s.isIdle = true ∧ s.txLen ≠ 0#11 ∧ s.wAns = .ok s.txLen.toNat :: [] ∧ cfgStrict s = true ∧
      gather s.rAns = (.endOfStream, ACK :: bad, []) ∧ bad ≠ [] ∧ bad.length ≤ 1024 ∧ bufferVerifies bad = false := by
  decide

/-- The four clauses of TransportErrorsEndTheExchange, in order. -/
theorem witness_TransportErrors_request_write :
    let s := encoded [.ok 8] []
    s.isIdle = true ∧ s.txLen ≠ 0#11 ∧ s.wAns = .ok 8 :: [] ∧ WAnswer.ok 8 ≠ .ok s.txLen.toNat := by decide

theorem witness_TransportErrors_first_accumulation :
    let s := encoded [.ok 9] [.data [0x06#8], .err]
    s.isIdle = true ∧ s.txLen ≠ 0#11 ∧ s.wAns = .ok s.txLen.toNat :: [] ∧ gather s.rAns = (.err, [0x06#8], []) := by decide

theorem witness_TransportErrors_second_accumulation :
    let s := encoded [.ok 9] [.data [0x06#8], .endOfStream, .err]
    s.isIdle = true ∧ s.txLen ≠ 0#11 ∧ s.wAns = .ok s.txLen.toNat :: [] ∧
      gather s.rAns = (.endOfStream, [ACK], [.err]) ∧
      gather [.err] = (.err, [], []) := by decide

theorem witness_TransportErrors_ack_write :
    let s := encoded [.ok 9, .ok 0] [.data (0x06#8 :: pos), .endOfStream]
    s.isIdle = true ∧ s.txLen ≠ 0#11 ∧ s.wAns = .ok s.txLen.toNat :: .ok 0 :: [] ∧ WAnswer.ok 0 ≠ .ok 1 ∧
      gather s.rAns = (.endOfStream, ACK :: pos, []) ∧ pos ≠ [] ∧ pos.length ≤ 1024 ∧ bufferVerifies pos = true := by
  decide

theorem witness_OverlongAndEmptyRepliesFailDecode :
    let s := encoded [.ok 9] [.data [0x06#8], .endOfStream, .endOfStream]
    s.isIdle = true ∧ s.txLen ≠ 0#11 ∧ s.wAns = .ok s.txLen.toNat :: [] ∧
      gather s.rAns = (.endOfStream, [ACK], [.endOfStream]) ∧ gather [.endOfStream] = (.endOfStream, [], []) := by decide

theorem witness_OverlongAndEmptyRepliesFailDecode_overlong :
    let long := List.replicate 1025 0x00#8
    let s := encoded [.ok 9] [.data [0x06#8], .endOfStream, .data long, .endOfStream]
    (s.isIdle = true ∧ s.txLen ≠ 0#11 ∧ s.wAns = .ok s.txLen.toNat :: []) ∧
      gather s.rAns = (.endOfStream, [ACK], [.data long, .endOfStream]) ∧
      gather [.data long, .endOfStream] = (.endOfStream, long, []) ∧ 1024 < long.length := by
  refine ⟨by decide, rfl, ?_, ?_⟩
  · rw [gather, gather, List.append_nil]
  · rw [List.length_replicate]; decide

theorem witness_ChunkBoundariesDoNotMatter :
    bytewise [.data (0x06#8 :: pos), .endOfStream] = bytewise [.data [0x06#8], .data [], .data pos, .endOfStream] ∧
      (nextOf (exec .xchg (leaveR [.data (0x06#8 :: pos), .endOfStream] (encoded [.ok 9] [])))).isSome = true := by decide

/-- An exchange left blocked in a read, and one left blocked in the write of its request. -/
theorem witness_LateAnswersChangeNothing :
    let e := Event.rAnswer .endOfStream
    after (exec .xchg (facing e (encoded [.ok 9] [])))
        (fun t => t.call == .readAck && t.inbox == [e]) = true ∧
      (nextOf (exec .xchg (leaveR [.endOfStream] (facing e (encoded [.ok 9] []))))).isSome = true ∧
      after (exec .xchg (facing (.wAnswer .err) (encoded [] [])))
        (fun t => t.call == .writeRequest && t.inbox == [.wAnswer .err]) = true := by decide

theorem witness_OperationsEndWhenTheTransportAnswers :
    let s := encoded [.ok 9, .ok 1] [.endOfStream, .endOfStream]
    s.isIdle = true ∧ 2 ≤ s.wAns.length ∧ 2 ≤ endings s.rAns := by decide

theorem witness_SequencerIgnoresTheOperands : (nextOf (exec .xchg (encoded [.ok 9] [.endOfStream]))).isSome = true := by
  decide

theorem witness_AckStartsTheReplyPhase :
    (waiting 0x06#8).call = .readAck ∧ (waiting 0x06#8).rxFill = 0#11 ∧ (waiting 0x06#8).rAns = [] := by decide

theorem witness_NakAndEotAreNoAck : (waiting 0x15#8).call = .readAck := by decide

theorem witness_TokensElsewhereChangeNothing : State.reset.call ≠ .readAck := by decide

theorem witness_TransactIsEncodeExchangeDecode :
    after (exec .transact (operands [.ok 9, .ok 1] [.data (0x06#8 :: pos), .endOfStream]))
      (fun t => t.call == .none_ && t.err == .none_ && t.rkind == .positive) = true ∧
      (operands [.ok 9, .ok 1] [.data (0x06#8 :: pos), .endOfStream]).isIdle = true := by decide

theorem witness_TransactStopsAtAnOversizedRequest :
    { State.reset with plen := 1016#16 }.isIdle = true ∧ 1016 ≤ { State.reset with plen := 1016#16 }.plen.toNat := by decide

theorem witness_TransactReturnsThePositiveReply :
    let i := Instr.rspPos 0xF2#8 0x00#8 6#16 [0x31#8, 0x30#8, 0x32#8, 0x32#8, 0x30#8, 0x03#8, 0x96#8]
    let s := operands [.ok 9, .ok 1] [.data (0x06#8 :: pos), .endOfStream]
    s.isIdle = true ∧ s.plen.toNat ≤ 1015 ∧ s.wAns = .ok (9 + s.plen.toNat) :: .ok 1 :: [] ∧
      gather s.rAns = (.endOfStream, ACK :: encode i, []) ∧ 5 + 7 ≤ 1024 ∧ 6 ≤ (6#16 : Word16).toNat ∧
      (6#16 : Word16).toNat ≤ 7 + 1 ∧ bufferVerifies (encode i) = true := by decide

theorem witness_TransactLeavesTheRestUnchanged :
    (nextOf (exec .transact { State.reset with plen := 1016#16 })).isSome = true ∧
      1016 ≤ { State.reset with plen := 1016#16 }.plen.toNat ∧
      (nextOf (exec .transact (operands [] []))).isSome = true := by decide

theorem witness_StepKeepsBuffersCanonical :
    (loaded pos).txBuf.wf = true ∧ (loaded pos).rxBuf.wf = true ∧ (nextOf (step (loaded pos))).isSome = true := by decide

theorem witness_StepKeepsReplyLengths :
    (loaded pos).rxLen.toNat ≤ Config.maxFrame ∧ (loaded pos).rxFill.toNat ≤ Config.maxFrame ∧
      (nextOf (step (loaded pos))).isSome = true := by decide

/-- With a frame held, not only the empty case. -/
theorem witness_StepKeepsTheRequestFrameWhole :
    let s := encoded [] []
    9 ≤ s.txLen.toNat ∧ s.txLen.toNat ≤ Config.maxFrame ∧ s.txBuf.get .tx 0 = STX ∧ s.txBuf.get .tx 4 = CMT ∧
      (be16 (s.txBuf.get .tx 2) (s.txBuf.get .tx 3)).toNat = s.txLen.toNat - 6 ∧
      s.txBuf.get .tx (s.txLen.toNat - 2) = ETX ∧ bcc (txFrame s) = 0x00#8 ∧ (nextOf (step s)).isSome = true := by decide

theorem witness_StepKeepsCfgReservedBits :
    (encoded [] []).cfg &&& 0xFE#8 = 0x00#8 ∧ (nextOf (step (encoded [] []))).isSome = true := by decide

/-- A running exchange, not only the idle block. -/
theorem witness_StepKeepsTheSequencerCoherent :
    callAgrees listening = true ∧ runningCleared listening = true ∧ ackSeen listening = true ∧
      (nextOf (step listening)).isSome = true := by decide

theorem witness_StepKeepsTheProtocol :
    let s := { listening with trace := [.enter .awaitingAck, .enter .sent, .write frame1] }
    phaseOf s.trace = some .awaitingAck ∧ standsIn s .awaitingAck = true ∧ (nextOf (step s)).isSome = true := by decide

theorem witness_HostAccessWhileBusyIsRefused :
    listening.isIdle = false ∧ (facing (.write (.cfg 0x00#8)) listening).inbox = .write (.cfg 0x00#8) :: [] ∧
      (facing (.read (.rxBuf 1023)) listening).inbox = .read (.rxBuf 1023) :: [] ∧
      HostRead.rxBuf 1023 ≠ .reg .xstate ∧ (1023 < 1024) := by decide

/-- The reads of an idle block, at both sides of a length register. -/
theorem witness_HostAccessWhileBusyIsRefused_idle :
    (facing (.read (.rxBuf 11)) (loaded pos)).isIdle = true ∧ 11 < (loaded pos).rxLen.toNat ∧
      (loaded pos).rxLen.toNat ≤ 12 ∧ (facing (.read (.rxBuf 12)) (loaded pos)).inbox = .read (.rxBuf 12) :: [] ∧
      { State.reset with rkind := .positive }.rkind = .positive ∧ State.reset.rkind ≠ .positive ∧
      { State.reset with rkind := .negative }.rkind = .negative := by decide

theorem witness_HostWritesWhenIdle :
    State.reset.isIdle = true ∧ (facing (.write (.rxBuf 1023 0x55#8)) State.reset).inbox = .write (.rxBuf 1023 0x55#8) :: [] ∧
      (facing (.write (.rxLen 1025#11)) State.reset).inbox = .write (.rxLen 1025#11) :: [] ∧
      (facing (.write (.rxLen 1024#11)) State.reset).inbox = .write (.rxLen 1024#11) :: [] ∧
      (facing (.write (.cfg 0xFF#8)) State.reset).inbox = .write (.cfg 0xFF#8) :: [] := by decide

theorem witness_HostIndexOutsideABufferFaults :
    1024 ≤ 1024 ∧ (facing (.read (.txBuf 1024)) State.reset).inbox = .read (.txBuf 1024) :: [] ∧
      (facing (.write (.rxBuf 1024 0x55#8)) State.reset).inbox = .write (.rxBuf 1024 0x55#8) :: [] ∧
      State.reset.isIdle = true ∧ listening.isIdle = false ∧
      (facing (.write (.txBuf 1024 0x55#8)) State.reset).inbox = .write (.txBuf 1024 0x55#8) :: [] := by decide

theorem witness_ResetPutsTheResetTable : (facing .reset listening).inbox = .reset :: [] := by decide

/-- The three places an instruction is fetched. -/
theorem witness_StepRunsTheDecodedInstruction :
    (facing (.opsel 3#3) State.reset).inbox = .opsel 3#3 :: [] ∧ decode .command [(3#3).setWidth 8] = .ok .encReq ∧
      (facing (.opsel 4#3) (loaded neg)).inbox = .opsel 4#3 :: [] ∧
      (decode .frame (rxReply (facing (.opsel 4#3) (loaded neg)))).isOk = true ∧
      (waiting 0x15#8).inbox = [] ∧ (waiting 0x15#8).call = .readAck ∧ (waiting 0x15#8).ackV = true ∧
      decode .token [(waiting 0x15#8).ackByte] = .ok .nak ∧
      (leaveR [.endOfStream] (waiting 0x15#8)).rAns = .endOfStream :: [] := by decide

theorem witness_WaitingKeepsAllState : listening.inbox = [] ∧ listening.wAns = [] ∧ listening.rAns = [] := by decide

end Sys2Proof.Tests
end

section
/-! What arrives late: further events of the host and further answers of the transport lead a block that has run as far
as it could to where they would have led it standing ready from the start (00_scope.md R19, 42_exchange.md R155). -/

namespace Sys2Proof.Machine

/-! ### Input that arrives -/

/-- Further input: the host's events from here on, and answers of the transport behind those that stand ready. -/
def arrive (es : List Event) (ws : List WAnswer) (rs : List RAnswer) (s : State) : State :=
  { s with inbox := es, wAns := s.wAns ++ ws, rAns := s.rAns ++ rs }

section
variable (es : List Event) (ws : List WAnswer) (rs : List RAnswer) (s : State)

@[simp] theorem arrive_call : (arrive es ws rs s).call = s.call := rfl
@[simp] theorem arrive_wAns : (arrive es ws rs s).wAns = s.wAns ++ ws := rfl
@[simp] theorem arrive_rAns : (arrive es ws rs s).rAns = s.rAns ++ rs := rfl

/-- A late answer to TRead, as `serve` puts it. -/
theorem arrive_read (a : RAnswer) : arrive es [] [a] s = leaveR (s.rAns ++ [a]) (leaveInbox es s) := by
  simp [arrive, leaveR, leaveInbox]

/-- A late answer to TWrite, as `serve` puts it. -/
theorem arrive_write (a : WAnswer) : arrive es [a] [] s = leaveW (s.wAns ++ [a]) (leaveInbox es s) := by
  simp [arrive, leaveW, leaveInbox]

theorem arrive_nothing : arrive es [] [] s = leaveInbox es s := by
  simp [arrive, leaveInbox]

/-! ### Operations that read no input -/

theorem storeByte_arrive (b : Byte) : storeByte b (arrive es ws rs s) = arrive es ws rs (storeByte b s) := by
  unfold storeByte
  rw [apply_ite (arrive es ws rs), apply_ite (arrive es ws rs)]
  rfl

theorem storeChunk_arrive (bs : List Byte) :
    storeChunk bs (arrive es ws rs s) = arrive es ws rs (storeChunk bs s) := by
  induction bs generalizing s with
  | nil => rfl
  | cons b bs ih => rw [storeChunk_cons, storeChunk_cons, storeByte_arrive, ih]

theorem decodePositive_arrive (r : List Byte) :
    decodePositive r (arrive es ws rs s) = arrive es ws rs (decodePositive r s) := by
  unfold decodePositive
  rw [apply_ite (arrive es ws rs)]
  rfl

theorem decodeNegative_arrive (r : List Byte) :
    decodeNegative r (arrive es ws rs s) = arrive es ws rs (decodeNegative r s) := by
  unfold decodeNegative
  rw [apply_ite (arrive es ws rs)]
  rfl

theorem decodeByKind_arrive (r : List Byte) :
    decodeByKind r (arrive es ws rs s) = arrive es ws rs (decodeByKind r s) := by
  unfold decodeByKind
  rw [apply_ite (arrive es ws rs), apply_ite (arrive es ws rs), decodePositive_arrive, decodeNegative_arrive]
  rfl

theorem decodeResponse_arrive (r : List Byte) :
    decodeResponse r (arrive es ws rs s) = arrive es ws rs (decodeResponse r s) := by
  unfold decodeResponse
  rw [apply_ite (arrive es ws rs), apply_ite (arrive es ws rs), ← decodeByKind_arrive]
  rfl

theorem encodeRequest_arrive : encodeRequest (arrive es ws rs s) = arrive es ws rs (encodeRequest s) := by
  unfold encodeRequest
  rw [apply_ite (arrive es ws rs)]
  rfl

theorem handOver_arrive : handOver (arrive es ws rs s) = arrive es ws rs (handOver s) := by
  have hd : decodeReply (arrive es ws rs s) = arrive es ws rs (decodeReply s) := decodeResponse_arrive ..
  unfold handOver
  rw [apply_ite (arrive es ws rs), hd]
  rfl

end

/-! ### Waiting: the operation has gone as far as its input lets it -/

/-- The call in progress, if any, has no answer ready (42_exchange.md R155; log entry 3). -/
structure Waits (s : State) : Prop where
  write : s.call = .writeRequest ∨ s.call = .writeAck → s.wAns = []
  read : s.call = .readAck ∨ s.call = .readReply → s.rAns = []

theorem waits_of_call_none {s : State} (h : s.call = .none_) : Waits s := by
  constructor <;> simp [h]

theorem resume_of_call_none {s : State} (h : s.call = .none_) : resume s = s := by
  simp [resume, h]

theorem resume_of_writeRequest {s : State} (h : s.call = .writeRequest) : resume s = awaitRequestWrite s := by
  simp [resume, h]

theorem resume_of_readAck {s : State} (h : s.call = .readAck) : resume s = awaitAck s := by
  simp [resume, h]

theorem resume_of_readReply {s : State} (h : s.call = .readReply) : resume s = awaitReply s := by
  simp [resume, h]

theorem resume_of_writeAck {s : State} (h : s.call = .writeAck) : resume s = awaitAckWrite s := by
  simp [resume, h]

/-- A call of TRead without an answer ready leaves everything as it is. -/
theorem accum_of_rAns_nil {s : State} (h : s.rAns = []) : accum s.rAns s = (.blocked, s) := by
  rw [h, accum_nil, ← h]
  rfl

theorem handOver_call (s : State) : (handOver s).call = .none_ := by
  unfold handOver
  split <;> rfl

/-- A waiting block stays where it is until something arrives. -/
theorem resume_of_waits {s : State} (h : Waits s) : resume s = s := by
  cases hc : s.call with
  | none_ => exact resume_of_call_none hc
  | writeRequest => simp [resume_of_writeRequest hc, awaitRequestWrite, h.write (.inl hc)]
  | readAck => simp [resume_of_readAck hc, awaitAck, accum_of_rAns_nil (h.read (.inl hc))]
  | readReply => simp [resume_of_readReply hc, awaitReply, accum_of_rAns_nil (h.read (.inr hc))]
  | writeAck => simp [resume_of_writeAck hc, awaitAckWrite, h.write (.inr hc)]

/-! ### The accumulation -/

@[simp] theorem storeByte_call (b : Byte) (s : State) : (storeByte b s).call = s.call := by
  obtain ⟨_, h⟩ | ⟨_, _, h⟩ | ⟨_, _, h⟩ := storeByte_cases b s <;> rw [h]

@[simp] theorem storeChunk_call (bs : List Byte) (s : State) : (storeChunk bs s).call = s.call := by
  induction bs generalizing s with
  | nil => rfl
  | cons b bs ih => rw [storeChunk_cons, ih, storeByte_call]

theorem storeByte_leaveR (as : List RAnswer) (b : Byte) (s : State) :
    storeByte b (leaveR as s) = leaveR as (storeByte b s) := by
  unfold storeByte
  rw [apply_ite (leaveR as), apply_ite (leaveR as)]
  rfl

theorem storeChunk_leaveR (as : List RAnswer) (bs : List Byte) (s : State) :
    storeChunk bs (leaveR as s) = leaveR as (storeChunk bs s) := by
  induction bs generalizing s with
  | nil => rfl
  | cons b bs ih => rw [storeChunk_cons, storeChunk_cons, storeByte_leaveR, ih]

/-- An accumulation takes its answers from its argument: those recorded in the state are overwritten. -/
theorem accum_leaveR (bs as : List RAnswer) (s : State) : accum as (leaveR bs s) = accum as s := by
  induction as generalizing s with
  | nil => rfl
  | cons a as ih =>
    cases a with
    | data c =>
      have hs := storeChunk_leaveR bs c (observe (.read (.data c)) s)
      exact (congrArg (accum as) hs).trans (ih _)
    | endOfStream => rfl
    | err => rfl

/-- An accumulation left without an answer has taken them all and stays in its call. -/
theorem accum_blocked {as : List RAnswer} {s t : State} (h : accum as s = (.blocked, t)) :
    t.rAns = [] ∧ t.call = s.call := by
  induction as generalizing s with
  | nil => cases h; exact ⟨rfl, rfl⟩
  | cons a as ih =>
    cases a with
    | data c => simpa using ih h
    | endOfStream => cases h
    | err => cases h

section
variable (es : List Event) (ws : List WAnswer) (rs : List RAnswer)

theorem accum_data_arrive (c : List Byte) (as : List RAnswer) (s : State) :
    accum (.data c :: as) (arrive es ws rs s) =
      accum as (arrive es ws rs (storeChunk c (observe (.read (.data c)) s))) :=
  congrArg (accum as) (storeChunk_arrive es ws rs (observe (.read (.data c)) s) c)

/-- An accumulation that was blocked goes on with the answers that arrive. -/
theorem accum_arrive_of_blocked {as : List RAnswer} {s t : State} (h : accum as s = (.blocked, t)) :
    accum (as ++ rs) (arrive es ws rs s) = accum rs (arrive es ws rs t) := by
  induction as generalizing s with
  | nil => cases h; exact (accum_leaveR rs rs _).symm
  | cons a as ih =>
    cases a with
    | data c => rw [List.cons_append, accum_data_arrive]; exact ih h
    | endOfStream => cases h
    | err => cases h

/-- An accumulation that has ended leaves the answers that arrive to what comes after it. -/
theorem accum_arrive_of_ended {as : List RAnswer} {s t : State} {e : AccumEnd} (h : accum as s = (e, t))
    (he : e ≠ .blocked) : accum (as ++ rs) (arrive es ws rs s) = (e, arrive es ws rs t) := by
  induction as generalizing s with
  | nil => cases h; exact absurd rfl he
  | cons a as ih =>
    cases a with
    | data c => rw [List.cons_append, accum_data_arrive]; exact ih h
    | endOfStream => cases h; rfl
    | err => cases h; rfl

end

/-! ### The two transport calls, said once -/

/-- TWrite of `n` bytes, then `k`: with no answer ready the block stays in the call (42_exchange.md R158, R168). -/
def afterWrite (n : Nat) (k : State → State) (s : State) : State :=
  match s.wAns with
  | [] => s
  | a :: as =>
    if a.accepts n then k (leaveW as s) else failExchange .transportError 0x00#8 .failTransport (leaveW as s)

/-- What follows an accumulation, `k` when the stream ended (42_exchange.md R159, R162). -/
def afterAccum (k : State → State) : AccumEnd × State → State
  | (.blocked, t) => t
  | (.err, t) => readFailed t
  | (.endOfStream, t) => k t

theorem awaitAckWrite_eq (s : State) : awaitAckWrite s = afterWrite 1 (fun s => handOver (setX .done s)) s := rfl

theorem awaitRequestWrite_eq (s : State) : awaitRequestWrite s = afterWrite s.txLen.toNat requestSent s := rfl

theorem awaitAck_eq (s : State) : awaitAck s = afterAccum firstByteTest (accum s.rAns s) := by
  unfold awaitAck
  obtain ⟨_ | _ | _, t⟩ := accum s.rAns s <;> rfl

theorem awaitReply_eq (s : State) : awaitReply s = afterAccum replyComplete (accum s.rAns s) := by
  unfold awaitReply
  obtain ⟨_ | _ | _, t⟩ := accum s.rAns s <;> rfl

theorem afterWrite_nil {n : Nat} {k : State → State} {s : State} (h : s.wAns = []) : afterWrite n k s = s := by
  simp [afterWrite, h]

theorem afterWrite_cons {n : Nat} {k : State → State} {s : State} {a : WAnswer} {as : List WAnswer}
    (h : s.wAns = a :: as) :
    afterWrite n k s =
      if a.accepts n then k (leaveW as s)
      else failExchange .transportError 0x00#8 .failTransport (leaveW as s) := by
  simp [afterWrite, h]

/-! ### The transitions, last first -/

/-- From `s` the transition `f` runs on until the block waits, and whatever arrives then leads where it would have led
had it stood ready before the transition. -/
structure RunsOn (f : State → State) (s : State) : Prop where
  waits : Waits (f s)
  late : ∀ es ws rs, f (arrive es ws rs s) = resume (arrive es ws rs (f s))

namespace RunsOn

variable {f g k : State → State} {s s' : State}

theorem of_ended (hc : (f s).call = .none_) (h : ∀ es ws rs, f (arrive es ws rs s) = arrive es ws rs (f s)) :
    RunsOn f s where
  waits := waits_of_call_none hc
  late es ws rs := (h es ws rs).trans (resume_of_call_none (s := arrive es ws rs (f s)) hc).symm

/-- A transition that goes on as another does from a state that input reaches unread. -/
theorem of_eq (hg : RunsOn g s') (h : f s = g s') (ha : ∀ es ws rs, f (arrive es ws rs s) = g (arrive es ws rs s')) :
    RunsOn f s where
  waits := h ▸ hg.waits
  late es ws rs := by rw [ha, h, hg.late]

theorem failExchange (e : Err) (i : Byte) (x : XState) (s : State) : RunsOn (failExchange e i x) s :=
  of_ended rfl fun _ _ _ => rfl

/-- Without an operation in progress nothing runs. -/
theorem id_of_call_none (hc : s.call = .none_) : RunsOn id s := of_ended hc fun _ _ _ => rfl

theorem handOver (s : State) : RunsOn handOver s :=
  of_ended (handOver_call s) fun es ws rs => handOver_arrive es ws rs s

/-- A TWrite runs on if what follows its acceptance does. -/
theorem of_write {n : State → Nat} (hf : ∀ s, f s = afterWrite (n s) k s)
    (hn : ∀ es ws rs, n (arrive es ws rs s) = n s) (hc : s.call = .writeRequest ∨ s.call = .writeAck)
    (hres : ∀ t, t.call = s.call → resume t = f t) (hk : ∀ as, RunsOn k (leaveW as s)) : RunsOn f s := by
  cases hw : s.wAns with
  | nil =>
    have hs : f s = s := (hf s).trans (afterWrite_nil hw)
    refine ⟨?_, fun es ws rs => by rw [hs, hres _ (arrive_call ..)]⟩
    rw [hs]
    exact ⟨fun _ => hw, by rcases hc with h | h <;> simp [h]⟩
  | cons a as =>
    have h := (hf s).trans (afterWrite_cons hw)
    have ha : ∀ es ws rs, f (arrive es ws rs s) = if a.accepts (n s) then k (arrive es ws rs (leaveW as s))
        else Machine.failExchange .transportError 0x00#8 .failTransport (arrive es ws rs (leaveW as s)) :=
      fun es ws rs => by
        rw [hf, hn, afterWrite_cons (as := as ++ ws) (by rw [arrive_wAns, hw]; rfl)]
        rfl
    by_cases hok : a.accepts (n s) = true
    · exact of_eq (hk as) (h.trans (if_pos hok)) fun es ws rs => (ha es ws rs).trans (if_pos hok)
    · exact of_eq (failExchange ..) (h.trans (if_neg hok)) fun es ws rs => (ha es ws rs).trans (if_neg hok)

/-- An accumulation runs on if what follows its end does. -/
theorem of_accum (hf : ∀ s, f s = afterAccum k (accum s.rAns s)) (hc : s.call = .readAck ∨ s.call = .readReply)
    (hres : ∀ t, t.call = s.call → resume t = f t) (hk : ∀ t, RunsOn k t) : RunsOn f s := by
  rcases h : accum s.rAns s with ⟨e, t⟩
  have hs : f s = afterAccum k (e, t) := (hf s).trans (congrArg _ h)
  have ended (he : e ≠ .blocked) (es ws rs) : f (arrive es ws rs s) = afterAccum k (e, arrive es ws rs t) :=
    (hf _).trans (congrArg _ (accum_arrive_of_ended es ws rs h he))
  cases e with
  | blocked =>
    obtain ⟨hr, hcall⟩ := accum_blocked h
    refine ⟨?_, fun es ws rs => ?_⟩
    · rw [hs]
      exact ⟨by rcases hc with h | h <;> simp [afterAccum, hcall, h], fun _ => hr⟩
    · have hres' : resume (arrive es ws rs t) = f (arrive es ws rs t) := hres _ hcall
      rw [hs, afterAccum, hres', hf, hf, arrive_rAns, arrive_rAns, hr, accum_arrive_of_blocked es ws rs h]
      rfl
  | endOfStream => exact of_eq (hk t) hs (ended nofun)
  | err => exact of_eq (failExchange .transportError 0x00#8 .failTransport (forgetReply t)) hs (ended nofun)

theorem awaitAckWrite (hc : s.call = .writeAck) : RunsOn awaitAckWrite s :=
  of_write (n := fun _ => 1) awaitAckWrite_eq (fun _ _ _ => rfl) (.inr hc) (fun _ ht => resume_of_writeAck (ht.trans hc))
    fun as => of_eq (handOver (setX .done (leaveW as s))) rfl fun _ _ _ => rfl

theorem acknowledge (s : State) : RunsOn acknowledge s :=
  of_eq (awaitAckWrite (s := callWrite [ACK] .writeAck (setX .replyReceived s)) rfl) rfl fun _ _ _ => rfl

theorem checkReply (s : State) : RunsOn checkReply s := by
  let s' := recordChecksum (bufferVerifies (rxReply s)) (setBccAcc (bcc (bodyBytes (rxReply s))) s)
  by_cases h : bufferVerifies (rxReply s) = false ∧ s.strict = true
  · exact of_eq (failExchange .checksumMismatch 0x00#8 .failDecode s') (if_pos h) fun _ _ _ => if_pos h
  · exact of_eq (acknowledge s') (if_neg h) fun _ _ _ => if_neg h

theorem replyComplete (s : State) : RunsOn replyComplete s := by
  by_cases ho : s.rxOvf = true
  · exact of_eq (failExchange .frameTooLarge 0x00#8 .failDecode (forgetReply s)) (if_pos ho) fun _ _ _ => if_pos ho
  · by_cases he : s.rxFill = 0#11
    · exact of_eq (failExchange .truncatedFrame 0x00#8 .failDecode (storeReplyLength s)) ((if_neg ho).trans (if_pos he))
        fun _ _ _ => (if_neg ho).trans (if_pos he)
    · exact of_eq (checkReply (storeReplyLength s)) ((if_neg ho).trans (if_neg he))
        fun _ _ _ => (if_neg ho).trans (if_neg he)

theorem awaitReply (hc : s.call = .readReply) : RunsOn awaitReply s :=
  of_accum awaitReply_eq (.inr hc) (fun _ ht => resume_of_readReply (ht.trans hc)) replyComplete

theorem ackReceived (s : State) : RunsOn ackReceived s := by
  let s' := setX .awaitingReply (setX .ackReceived s)
  by_cases h : s.rxFill = 0#11
  · exact of_eq (awaitReply (s := setCall .readReply s') rfl) (if_pos h) fun _ _ _ => if_pos h
  · exact of_eq (replyComplete s') (if_neg h) fun _ _ _ => if_neg h

theorem noAck (s : State) : RunsOn noAck s :=
  of_eq (failExchange .noAck (noAckInfo s) .failNoAck (forgetReply (recordNoAckByte s))) rfl fun _ _ _ => rfl

theorem firstByteTest (s : State) : RunsOn firstByteTest s := by
  by_cases h : s.ackV = true ∧ s.ackByte = ACK
  · exact of_eq (ackReceived s) (if_pos h) fun _ _ _ => if_pos h
  · exact of_eq (noAck s) (if_neg h) fun _ _ _ => if_neg h

theorem awaitAck (hc : s.call = .readAck) : RunsOn awaitAck s :=
  of_accum awaitAck_eq (.inl hc) (fun _ ht => resume_of_readAck (ht.trans hc)) firstByteTest

theorem requestSent (s : State) : RunsOn requestSent s :=
  of_eq (awaitAck (s := setCall .readAck (setX .awaitingAck (setX .sent s))) rfl) rfl fun _ _ _ => rfl

theorem awaitRequestWrite (hc : s.call = .writeRequest) : RunsOn awaitRequestWrite s :=
  of_write awaitRequestWrite_eq (fun _ _ _ => rfl) (.inl hc) (fun _ ht => resume_of_writeRequest (ht.trans hc))
    fun as => requestSent (leaveW as s)

theorem startExchange (o : Op) (s : State) : RunsOn (startExchange o) s :=
  of_eq (awaitRequestWrite (s := callWrite (txFrame s) .writeRequest (clearExchange o s)) rfl) rfl fun _ _ _ => rfl

theorem resume (s : State) : RunsOn resume s := by
  have go {f : State → State} (hf : RunsOn f s) (h : ∀ t, t.call = s.call → Machine.resume t = f t) :
      RunsOn Machine.resume s := of_eq hf (h s rfl) fun es ws rs => h _ (arrive_call es ws rs s)
  cases hc : s.call with
  | none_ => exact go (id_of_call_none hc) fun _ ht => resume_of_call_none (ht.trans hc)
  | writeRequest => exact go (awaitRequestWrite hc) fun _ ht => resume_of_writeRequest (ht.trans hc)
  | readAck => exact go (awaitAck hc) fun _ ht => resume_of_readAck (ht.trans hc)
  | readReply => exact go (awaitReply hc) fun _ ht => resume_of_readReply (ht.trans hc)
  | writeAck => exact go (awaitAckWrite hc) fun _ ht => resume_of_writeAck (ht.trans hc)

/-- `XCHG`, refused without a request to send (42_exchange.md R156). -/
theorem exchange (hc : s.call = .none_) : RunsOn exchange s := by
  by_cases h : s.txLen = 0#11
  · exact of_eq (id_of_call_none hc) (if_pos h) fun _ _ _ => if_pos h
  · exact of_eq (startExchange .xchg s) (if_neg h) fun _ _ _ => if_neg h

/-- `TRANSACT`: the encoder reads no input, and after its failure nothing is sent (43_session.md R190). -/
theorem transaction (hc : s.call = .none_) : RunsOn transaction s := by
  have ha (es ws rs) : Machine.transaction (arrive es ws rs s) =
      if (encodeRequest s).err = .none_ then Machine.startExchange .transact (arrive es ws rs (encodeRequest s))
      else arrive es ws rs (encodeRequest s) := by
    unfold Machine.transaction
    rw [encodeRequest_arrive]
    rfl
  by_cases h : (encodeRequest s).err = .none_
  · exact of_eq (startExchange .transact (encodeRequest s)) (if_pos h) fun es ws rs => (ha es ws rs).trans (if_pos h)
  · have hc' : (encodeRequest s).call = .none_ := by rw [encodeRequest_frame]; exact hc
    exact of_eq (id_of_call_none hc') (if_neg h) fun es ws rs => (ha es ws rs).trans (if_neg h)

end RunsOn

/-! ### The step that serves a late answer -/

theorem step_rAnswer {t : State} {a : RAnswer} {es : List Event} (h : t.inbox = .rAnswer a :: es) :
    step t = .next (resume (arrive es [] [a] t)) := by
  unfold step nextStep
  rw [h, arrive_read]
  rfl

theorem step_wAnswer {t : State} {a : WAnswer} {es : List Event} (h : t.inbox = .wAnswer a :: es) :
    step t = .next (resume (arrive es [a] [] t)) := by
  unfold step nextStep
  rw [h, arrive_write]
  rfl

/-- What the host does later has no part in how far an operation goes (42_exchange.md R155). -/
theorem resume_leaveInbox (es : List Event) (s : State) : resume (leaveInbox es s) = leaveInbox es (resume s) := by
  obtain ⟨⟨hw, hr⟩, hlate⟩ := RunsOn.resume s
  calc resume (leaveInbox es s) = resume (arrive es [] [] (resume s)) := by rw [← arrive_nothing, hlate]
    _ = resume (leaveInbox es (resume s)) := by rw [arrive_nothing]
    _ = leaveInbox es (resume s) := resume_of_waits ⟨hw, hr⟩

theorem whenIdle_of_isIdle {f : State → State} {s : State} (h : s.isIdle = true) : whenIdle f s = f s := if_pos h

theorem call_of_isIdle {s : State} (h : s.isIdle = true) : s.call = .none_ := by
  simp only [State.isIdle, Bool.and_eq_true, beq_iff_eq] at h
  exact h.1

/-- Started on an idle block, XCHG and TRANSACT run on until the block waits. -/
theorem exec_runsOn {i : Instr} {s : State} (hi : i = .xchg ∨ i = .transact) (hs : s.isIdle = true) :
    ∃ f, RunsOn f s ∧ ∀ s', s'.isIdle = true → exec i s' = .next (f s') := by
  have hc := call_of_isIdle hs
  obtain rfl | rfl := hi
  · exact ⟨exchange, .exchange hc, fun _ h => congrArg _ (whenIdle_of_isIdle h)⟩
  · exact ⟨transaction, .transaction hc, fun _ h => congrArg _ (whenIdle_of_isIdle h)⟩

/-- Answers that arrive after XCHG or TRANSACT has come to wait lead where they would have led from its start. -/
theorem resume_arrive_of_exec {i : Instr} {s t u : State} {ws : List WAnswer} {rs : List RAnswer}
    (hi : i = .xchg ∨ i = .transact) (hs : s.isIdle = true) (ht : exec i s = .next t)
    (hu : exec i (arrive s.inbox ws rs s) = .next u) (es : List Event) :
    resume (arrive es ws rs t) = leaveInbox es u := by
  obtain ⟨f, hf, hexec⟩ := exec_runsOn hi hs
  obtain rfl : f s = t := Host.Outcome.next.inj ((hexec s hs).symm.trans ht)
  obtain rfl : f (arrive s.inbox ws rs s) = u := Host.Outcome.next.inj ((hexec (arrive s.inbox ws rs s) hs).symm.trans hu)
  rw [hf.late, ← resume_leaveInbox]
  rfl

/-- Settles O36: a late answer of the transport is one way for input to arrive at a waiting block. -/
theorem lateAnswersChangeNothing : Obligations.LateAnswersChangeNothing := by
  intro s t i es hi hs ht
  refine ⟨fun a u _ hin hu => ?_, fun a u _ hin hu => ?_⟩
  · rw [step_rAnswer hin, resume_arrive_of_exec hi hs ht (by rwa [arrive_read])]
  · rw [step_wAnswer hin, resume_arrive_of_exec hi hs ht (by rwa [arrive_write])]

end Sys2Proof.Machine
end

section
/-! The text tables and the typed results, row by row (43_session.md R195). -/

namespace Sys2Proof.Machine

/-! ### The text tables -/

/-- A code absent from the table has the empty message (41_frame_codec.md R138). -/
theorem errMsg_of_absent {e1 e0 : Byte} (h : Config.otherMessage e1 e0 = none) (hne : ¬(e1 = 0x31#8 ∧ e0 = 0x30#8)) :
    errMsg e1 e0 = "" := by
  rw [errMsg, if_neg hne, h, Option.getD_none]

/-! ### The typed result of each value of ERR -/

section
variable {s : State}

theorem result_of_none (h : s.err = .none_) : result s = resultWithoutFailure s := by simp [result, h]

theorem result_of_deviceError (h : s.err = .deviceError) :
    result s = .deviceError (s.xstate == .done) s.re1 s.re0 (errMsg s.re1 s.re0) (replyPayload s) := by
  simp [result, h]

theorem result_of_unknownResponseType (h : s.err = .unknownResponseType) :
    result s = .unknownResponse (s.xstate == .done) s.errInfo := by
  simp [result, h]

/-- XSTATE tells the sequencer's TruncatedFrame from the decoder's. -/
theorem result_of_truncatedFrame (h : s.err = .truncatedFrame) :
    result s =
      if s.xstate = .failDecode then .replyRejected .truncatedFrame else .truncatedReply (s.xstate == .done) := by
  simp [result, h]

theorem result_of_noAck (h : s.err = .noAck) : result s = .noAck s.errInfo s.noAckV := by simp [result, h]

theorem result_of_transportError (h : s.err = .transportError) : result s = .transportFailure := by simp [result, h]

theorem result_of_checksumMismatch (h : s.err = .checksumMismatch) : result s = .replyRejected .checksumMismatch := by
  simp [result, h]

/-- TXLEN tells the encoder's FrameTooLarge from the sequencer's. -/
theorem result_of_frameTooLarge (h : s.err = .frameTooLarge) :
    result s = if s.txLen = 0#11 then .requestRefused else .replyRejected .frameTooLarge := by
  simp [result, h]

/-- The three ways the sequencer rejects a reply. -/
theorem result_of_failDecode (hx : s.xstate = .failDecode) (hl : s.txLen ≠ 0#11)
    (h : s.err = .frameTooLarge ∨ s.err = .truncatedFrame ∨ s.err = .checksumMismatch) :
    result s = .replyRejected s.err := by
  obtain h | h | h := h
  · rw [result_of_frameTooLarge h, if_neg hl, h]
  · rw [result_of_truncatedFrame h, if_pos hx, h]
  · rw [result_of_checksumMismatch h, h]

end

/-- Settles O26: the four entries stand in the tables, and each row of R195 is the result of one value of ERR. -/
theorem textTablesHoldTheGivenEntries : Obligations.TextTablesHoldTheGivenEntries := by
  refine ⟨rfl, rfl, rfl, rfl, fun s => ⟨?deviceError, ?positive, ?unknownResponse, ?truncatedReply, ?notDecoded, ?noAck,
    ?transportFailure, result_of_failDecode, ?requestRefused⟩⟩
  case deviceError => exact fun h => ⟨result_of_deviceError h, errMsg_of_absent⟩
  case positive =>
    intro hx h hk
    simp [result_of_none h, resultWithoutFailure, hk, hx]
  case unknownResponse =>
    intro hx h
    simp [result_of_unknownResponseType h, hx]
  case truncatedReply =>
    intro hx h
    simp [result_of_truncatedFrame h, hx]
  case notDecoded =>
    intro hx h hk
    simp [result_of_none h, resultWithoutFailure, hk, hx]
  case noAck => exact fun _ => result_of_noAck
  case transportFailure => exact fun _ => result_of_transportError
  case requestRefused => exact fun hl h => (result_of_frameTooLarge h).trans (if_pos hl)

end Sys2Proof.Machine
end

section
/-! The request side of the block: the request frame in TXBUF and CFG, which no exchange writes, and the lengths of the
reply (10_state.md R29, R41). -/

namespace Sys2Proof.Machine

open Sys2Proof.Safety

/-! ### What no exchange writes -/

/-- Storing a byte writes the reply side only (42_exchange.md R154). -/
theorem storeByte_requestSide (b : Byte) (s : State) :
    (storeByte b s).txBuf = s.txBuf ∧ (storeByte b s).txLen = s.txLen ∧ (storeByte b s).cfg = s.cfg := by
  obtain ⟨_, h⟩ | ⟨_, _, h⟩ | ⟨_, _, h⟩ := storeByte_cases b s <;> rw [h] <;> exact ⟨rfl, rfl, rfl⟩

theorem decodeResponse_requestSide (r : List Byte) (s : State) :
    (decodeResponse r s).txBuf = s.txBuf ∧ (decodeResponse r s).txLen = s.txLen ∧
      (decodeResponse r s).cfg = s.cfg := by
  rw [decodeResponse_frame]
  exact ⟨rfl, rfl, rfl⟩

/-- A host read leaves what it returned, and the block as it was (10_state.md R39; log entry 8). -/
theorem hostRead_frame (r : HostRead) (s : State) :
    hostRead r s = { s with hostData := (hostRead r s).hostData, freeCtr := (hostRead r s).freeCtr } := by
  cases h : readValue r s with
  | none => rw [hostRead_none r s h]
  | some v => rw [hostRead_some r s v h]

theorem hostRead_requestSide (r : HostRead) (s : State) :
    (hostRead r s).txBuf = s.txBuf ∧ (hostRead r s).txLen = s.txLen ∧ (hostRead r s).cfg = s.cfg := by
  rw [hostRead_frame]
  exact ⟨rfl, rfl, rfl⟩

/-- A property of TXBUF, TXLEN and CFG alone is kept by the machine if ENC.REQ, a host write and reset keep it: no other
operation writes them (10_state.md R25, R29; 42_exchange.md R157). -/
theorem keptByMachine_of_requestSide {P : State → Prop}
    (side : ∀ s t : State, P s → t.txBuf = s.txBuf ∧ t.txLen = s.txLen ∧ t.cfg = s.cfg → P t)
    (encode : ∀ s, P s → P (encodeRequest s)) (write : ∀ w s, P s → P (writeIdle w s))
    (reset : ∀ s, P (resetBlock s)) : KeptByMachine P where
  enter _ _ hs := side _ _ hs ⟨rfl, rfl, rfl⟩
  observed _ _ hs := side _ _ hs ⟨rfl, rfl, rfl⟩
  raise _ _ _ hs := side _ _ hs ⟨rfl, rfl, rfl⟩
  endOp _ hs := side _ _ hs ⟨rfl, rfl, rfl⟩
  forget _ hs := side _ _ hs ⟨rfl, rfl, rfl⟩
  store b s hs := side _ _ hs (storeByte_requestSide b s)
  wTaken _ _ hs := side _ _ hs ⟨rfl, rfl, rfl⟩
  rTaken _ _ hs := side _ _ hs ⟨rfl, rfl, rfl⟩
  reading _ _ hs := side _ _ hs ⟨rfl, rfl, rfl⟩
  checksum _ _ hs := side _ _ hs ⟨rfl, rfl, rfl⟩
  working _ _ hs := side _ _ hs ⟨rfl, rfl, rfl⟩
  noAckByte _ hs := side _ _ hs ⟨rfl, rfl, rfl⟩
  received _ hs := side _ _ hs ⟨rfl, rfl, rfl⟩
  decode r s hs := side _ _ hs (decodeResponse_requestSide r s)
  start _ _ hs := side _ _ hs ⟨rfl, rfl, rfl⟩
  compute _ hs := side _ _ hs ⟨rfl, rfl, rfl⟩
  verify _ hs := side _ _ hs ⟨rfl, rfl, rfl⟩
  encode := encode
  write w s hs _ := write w s hs
  read r s hs := side _ _ hs (hostRead_requestSide r s)
  reset s _ := reset s
  inbox _ _ hs := side _ _ hs ⟨rfl, rfl, rfl⟩

/-! ### The request frame ENC.REQ builds (30_encoding.md R83) -/

section
variable (addr cm pm : Byte) (data : List Byte)

theorem requestFrame_stx : byteAt (requestFrame addr cm pm data) 0 = STX := by
  simp [requestFrame, requestHead]

theorem requestFrame_cmt : byteAt (requestFrame addr cm pm data) 4 = CMT := by
  simp [requestFrame, requestHead]

/-- LEN counts the marker, CM, PM and the payload (30_encoding.md R82). -/
theorem requestFrame_len :
    be16 (byteAt (requestFrame addr cm pm data) 2) (byteAt (requestFrame addr cm pm data) 3) =
      BitVec.ofNat 16 (data.length + 3) := by
  simp [requestFrame, requestHead]

/-- ETX stands before the last byte. -/
theorem requestFrame_etx : byteAt (requestFrame addr cm pm data) (data.length + 7) = ETX := by
  rw [requestFrame, byteAt_append_left _ _ _ (by simp; omega), requestHead, byteAt_append_right _ _ _ (by simp)]
  simp

/-- A byte sequence followed by its own checksum has the checksum 0 (40_checksum.md R111). -/
theorem bcc_append_bcc (bs : List Byte) : bcc (bs ++ [bcc bs]) = 0x00#8 := by
  simp [bcc, xorFrom_append]

theorem requestFrame_bcc : bcc (requestFrame addr cm pm data) = 0x00#8 := bcc_append_bcc _

end

theorem builtFrame_length (s : State) : (builtFrame s).length = 9 + s.plen.toNat := by simp [builtFrame]

/-- A buffer that holds the frame ENC.REQ builds holds a whole request frame (10_state.md R41). -/
theorem requestFrameWhole_of_holding {s t : State} {m : Memory} (hn : 9 + s.plen.toNat ≤ Config.maxFrame)
    (hbuf : t.txBuf = m.holding (builtFrame s)) (hlen : t.txLen.toNat = 9 + s.plen.toNat) : RequestFrameWhole t := by
  have hget (i : Nat) (hi : i < 9 + s.plen.toNat) : t.txBuf.get .tx i = byteAt (builtFrame s) i := by
    rw [hbuf, Memory.get_holding _ _ _ _ (by rwa [builtFrame_length])]
  have hframe : txFrame t = builtFrame s := by
    rw [txFrame, hbuf, hlen, ← builtFrame_length, Memory.take_holding]
  have hetx : t.txLen.toNat - 2 = (payload s).length + 7 := by rw [payload_length]; omega
  refine .inr ⟨by omega, by omega, ?stx, ?cmt, ?len, ?etx, ?checksum⟩
  case stx => exact (hget 0 (by omega)).trans (requestFrame_stx ..)
  case cmt => exact (hget 4 (by omega)).trans (requestFrame_cmt ..)
  case len =>
    rw [hget 2 (by omega), hget 3 (by omega), builtFrame, requestFrame_len, payload_length, BitVec.toNat_ofNat, hlen]
    unfold Config.maxFrame at hn
    omega
  case etx => rw [hget _ (by omega), hetx]; exact requestFrame_etx ..
  case checksum => rw [hframe]; exact requestFrame_bcc ..

/-- ENC.REQ leaves no frame or a whole one (41_frame_codec.md R124). -/
theorem encodeRequest_requestFrameWhole (s : State) : RequestFrameWhole (encodeRequest s) := by
  unfold encodeRequest
  split
  · exact .inl rfl
  · rename_i hn
    refine requestFrameWhole_of_holding (s := s) (m := s.txBuf) (Nat.not_lt.1 hn) rfl ?_
    have : 9 + s.plen.toNat < 2 ^ 11 := by unfold Config.maxFrame at hn; omega
    exact (BitVec.toNat_ofNat ..).trans (Nat.mod_eq_of_lt this)

/-! ### Host writes -/

/-- A host write reaches the operands, the payload, CFG, BCCIN, RXLEN and RXBUF only (10_state.md R39). -/
theorem writeIdle_frame (w : HostWrite) (s : State) :
    writeIdle w s =
      { s with
        raddr := (writeIdle w s).raddr, rcm := (writeIdle w s).rcm, rpm := (writeIdle w s).rpm
        plen := (writeIdle w s).plen, p := (writeIdle w s).p, pEpoch := (writeIdle w s).pEpoch
        cfg := (writeIdle w s).cfg, bccIn := (writeIdle w s).bccIn, rxLen := (writeIdle w s).rxLen
        rxBuf := (writeIdle w s).rxBuf } := by
  cases w with
  | payload bs => unfold writeIdle; dsimp only; split <;> rfl
  | rxLen v => unfold writeIdle; dsimp only; split <;> rfl
  | _ => rfl

/-- The host cannot write TXBUF or TXLEN (10_state.md R25). -/
theorem writeIdle_txSide (w : HostWrite) (s : State) :
    (writeIdle w s).txBuf = s.txBuf ∧ (writeIdle w s).txLen = s.txLen := by
  rw [writeIdle_frame]
  exact ⟨rfl, rfl⟩

/-- A write of CFG stores its bit 0 and zeros, and no other write reaches CFG (10_state.md R29). -/
theorem writeIdle_cfg (w : HostWrite) (s : State) :
    (writeIdle w s).cfg = s.cfg ∨ ∃ v : Byte, (writeIdle w s).cfg = cfgWritten v := by
  cases w with
  | cfg v => exact .inr ⟨v, rfl⟩
  | payload bs => unfold writeIdle; dsimp only; split <;> exact .inl rfl
  | rxLen v => unfold writeIdle; dsimp only; split <;> exact .inl rfl
  | _ => exact .inl rfl

/-- RXLEN takes no value above 1024 (10_state.md R26), and the fill index is hidden from the host. -/
theorem writeIdle_replyLengths (w : HostWrite) (s : State) (h : ReplyLengthsFit s) :
    ReplyLengthsFit (writeIdle w s) := by
  cases w with
  | rxLen v =>
    unfold writeIdle
    dsimp only
    split
    · exact ⟨by assumption, h.2⟩
    · exact h
  | payload bs => unfold writeIdle; dsimp only; split <;> exact h
  | _ => exact h

/-! ### The invariants -/

/-- Settles O49: only ENC.REQ writes the request frame, and it writes it whole. -/
theorem stepKeepsTheRequestFrameWhole : Obligations.StepKeepsTheRequestFrameWhole := by
  have side (s t : State) (hs : RequestFrameWhole s)
      (h : t.txBuf = s.txBuf ∧ t.txLen = s.txLen) : RequestFrameWhole t := by
    unfold RequestFrameWhole txFrame at *
    rwa [h.1, h.2]
  exact fun s t => (keptByMachine_of_requestSide (fun s t hs h => side s t hs ⟨h.1, h.2.1⟩)
    (fun s _ => encodeRequest_requestFrameWhole s) (fun w s hs => side s _ hs (writeIdle_txSide w s))
    fun _ => .inl rfl).step s t

/-- What a write of CFG stores has its reserved bits at 0. -/
theorem cfgWritten_reserved (v : Byte) : cfgWritten v &&& 0xFE#8 = 0x00#8 := by
  rw [cfgWritten, BitVec.and_assoc]
  exact BitVec.and_zero

/-- Settles O50: a write of CFG is masked, and reset writes 0x01. -/
theorem stepKeepsCfgReservedBits : Obligations.StepKeepsCfgReservedBits := by
  have side (s t : State) (hs : CfgReservedZero s) (h : t.cfg = s.cfg) : CfgReservedZero t := by
    unfold CfgReservedZero at *
    rwa [h]
  refine fun s t => (keptByMachine_of_requestSide (fun s t hs h => side s t hs h.2.2)
    (fun s hs => side s _ hs (by rw [encodeRequest_frame])) (fun w s hs => ?_)
    fun _ => (rfl : 0x01#8 &&& 0xFE#8 = 0x00#8)).step s t
  obtain h | ⟨v, h⟩ := writeIdle_cfg w s
  · exact side s _ hs h
  · rw [CfgReservedZero, h]
    exact cfgWritten_reserved v

/-- The fill index moves only while RXBUF has room (42_exchange.md R154). -/
theorem storeByte_replyLengths (b : Byte) (s : State) (h : ReplyLengthsFit s) : ReplyLengthsFit (storeByte b s) := by
  obtain ⟨_, he⟩ | ⟨_, hroom, he⟩ | ⟨_, _, he⟩ := storeByte_cases b s <;> rw [he]
  · exact h
  · have hfill : (s.rxFill + 1#11).toNat ≤ Config.maxFrame := by
      rw [BitVec.toNat_add]
      unfold Config.maxFrame at *
      simp only [BitVec.toNat_ofNat]
      omega
    exact ⟨h.1, hfill⟩
  · exact h

theorem keptByMachine_replyLengths : KeptByMachine ReplyLengthsFit where
  enter _ _ hs := hs
  observed _ _ hs := hs
  raise _ _ _ hs := hs
  endOp _ hs := hs
  forget _ hs := hs
  store := storeByte_replyLengths
  wTaken _ _ hs := hs
  rTaken _ _ hs := hs
  reading _ _ hs := hs
  checksum _ _ hs := hs
  working _ _ hs := hs
  noAckByte _ hs := hs
  received _ hs := ⟨hs.2, hs.2⟩
  decode r s hs := by rw [decodeResponse_frame]; exact hs
  start _ _ _ := ⟨Nat.zero_le _, Nat.zero_le _⟩
  compute _ hs := hs
  verify _ hs := hs
  encode s hs := by rw [encodeRequest_frame]; exact hs
  write w s hs _ := writeIdle_replyLengths w s hs
  read r s hs := by rw [hostRead_frame]; exact hs
  reset _ _ := ⟨Nat.zero_le _, Nat.zero_le _⟩
  inbox _ _ hs := hs

/-- Settles O48: RXLEN takes the fill index, 0 or a host's value up to 1024. -/
theorem stepKeepsReplyLengths : Obligations.StepKeepsReplyLengths :=
  keptByMachine_replyLengths.step

end Sys2Proof.Machine
end

section
/-! The induction over the sequencer for invariants that speak of where it stands: one condition per transition of
42_exchange.md, and the step that follows from them. -/

namespace Sys2Proof.Machine

open Sys2Proof.Safety

/-! ### What an operation on an idle block does not move -/

/-- The sequencer stands in `t` where it stands in `s`, and nothing was observed between them. -/
structure SameStanding (s t : State) : Prop where
  call : t.call = s.call
  xstate : t.xstate = s.xstate
  op : t.op = s.op
  trace : t.trace = s.trace

theorem SameStanding.isIdle {s t : State} (h : SameStanding s t) : t.isIdle = s.isIdle := by
  rw [State.isIdle, h.call, h.xstate, State.isIdle]

theorem decodeResponse_standing (r : List Byte) (s : State) : SameStanding s (decodeResponse r s) := by
  rw [decodeResponse_frame]
  exact ⟨rfl, rfl, rfl, rfl⟩

theorem encodeRequest_standing (s : State) : SameStanding s (encodeRequest s) := by
  rw [encodeRequest_frame]
  exact ⟨rfl, rfl, rfl, rfl⟩

theorem writeIdle_standing (w : HostWrite) (s : State) : SameStanding s (writeIdle w s) := by
  rw [writeIdle_frame]
  exact ⟨rfl, rfl, rfl, rfl⟩

theorem xstate_isRest_of_isIdle {s : State} (h : s.isIdle = true) : s.xstate.isRest = true := by
  simp only [State.isIdle, Bool.and_eq_true] at h
  exact h.2

/-- A refused start changes nothing (10_state.md R39). -/
theorem whenIdle_of_busy {f : State → State} {s : State} (h : s.isIdle = false) : whenIdle f s = s :=
  if_neg (by simp [h])

/-- Storing a byte writes ACKBYTE, ACKV, RXBUF, the fill index and RXOVF only (42_exchange.md R154). -/
theorem storeByte_frame (b : Byte) (s : State) :
    storeByte b s =
      { s with
        ackByte := (storeByte b s).ackByte, ackV := (storeByte b s).ackV, rxBuf := (storeByte b s).rxBuf
        rxFill := (storeByte b s).rxFill, rxOvf := (storeByte b s).rxOvf } := by
  obtain ⟨_, h⟩ | ⟨_, _, h⟩ | ⟨_, _, h⟩ := storeByte_cases b s <;> rw [h]

/-- The end of a successful exchange leaves XSTATE and the trace to the transition before it (42_exchange.md R169). -/
theorem handOver_standing (s : State) :
    (handOver s).xstate = s.xstate ∧ (handOver s).op = .none_ ∧ (handOver s).trace = s.trace := by
  have hd := decodeResponse_standing (rxReply s) s
  unfold handOver
  split
  · exact ⟨hd.xstate, rfl, hd.trace⟩
  · exact ⟨rfl, rfl, rfl⟩

/-! ### The transitions -/

/-- A property `P` of the block as it stands between two steps, kept by every transition of an exchange, with `A` where
the first accumulation has ended (42_exchange.md R161) and `R` where the reply has been accumulated (R163). -/
structure KeptBySequencer (P A R : State → Prop) : Prop where
  wTaken : ∀ w s, P s → P (leaveW w s)
  rTaken : ∀ r s, P s → P (leaveR r s)
  writeFailed : ∀ s, s.call = .writeRequest ∨ s.call = .writeAck → P s →
    P (failExchange .transportError 0x00#8 .failTransport s)
  requestSent : ∀ s, s.call = .writeRequest → P s → P (setCall .readAck (setX .awaitingAck (setX .sent s)))
  chunk : ∀ c s, s.call = .readAck ∨ s.call = .readReply → P s → P (observe (.read (.data c)) s)
  store : ∀ b s, s.call = .readAck ∨ s.call = .readReply → P s → P (storeByte b s)
  readFailed : ∀ s, s.call = .readAck ∨ s.call = .readReply → P s → P (readFailed (observe (.read .err) s))
  ackEnded : ∀ s, s.call = .readAck → P s → A (observe (.read .endOfStream) s)
  noAck : ∀ s, A s → P (noAck s)
  acknowledged : ∀ s, A s → s.ackV = true → s.ackByte = ACK →
    P (setCall .readReply (setX .awaitingReply (setX .ackReceived s)))
  coalesced : ∀ s, A s → s.ackV = true → s.ackByte = ACK → R (setX .awaitingReply (setX .ackReceived s))
  replyEnded : ∀ s, s.call = .readReply → P s → R (observe (.read .endOfStream) s)
  rejected : ∀ f s t, R s → t.trace = s.trace → P (failExchange f 0x00#8 .failDecode t)
  accepted : ∀ ok b s, R s → s.rxFill ≠ 0#11 → ok = true ∨ s.strict = false →
    P (callWrite [ACK] .writeAck (setX .replyReceived (recordChecksum ok (setBccAcc b (storeReplyLength s)))))
  done : ∀ s, s.call = .writeAck → P s → P (handOver (setX .done s))

namespace KeptBySequencer

variable {P A R : State → Prop} {s : State}

theorem storeChunk (h : KeptBySequencer P A R) (bs : List Byte) (s : State)
    (hc : s.call = .readAck ∨ s.call = .readReply) (hs : P s) : P (storeChunk bs s) := by
  induction bs generalizing s with
  | nil => exact hs
  | cons b bs ih => exact ih _ (by rwa [storeByte_call]) (h.store b s hc hs)

/-- An accumulation keeps the property if what follows its end does. -/
theorem accum (h : KeptBySequencer P A R) {k : State → State} (as : List RAnswer) (s : State)
    (hc : s.call = .readAck ∨ s.call = .readReply) (hs : P s)
    (hk : ∀ t, t.call = s.call → P t → P (k (observe (.read .endOfStream) t))) :
    P (afterAccum k (accum as s)) := by
  induction as generalizing s with
  | nil => exact h.rTaken _ _ hs
  | cons a as ih =>
    cases a with
    | data c =>
      have hcall : (Machine.storeChunk c (observe (.read (.data c)) s)).call = s.call := by simp
      refine ih _ (by rwa [hcall]) (h.storeChunk c _ hc (h.chunk c s hc hs)) ?_
      rwa [hcall]
    | endOfStream => exact hk (leaveR as s) rfl (h.rTaken _ _ hs)
    | err => exact h.readFailed (leaveR as s) hc (h.rTaken _ _ hs)

theorem awaitAckWrite (h : KeptBySequencer P A R) (hc : s.call = .writeAck) (hs : P s) : P (awaitAckWrite s) := by
  unfold Machine.awaitAckWrite
  split
  · exact hs
  · have hw := h.wTaken ‹_› s hs
    split
    · exact h.done _ hc hw
    · exact h.writeFailed _ (.inr hc) hw

theorem checkReply (h : KeptBySequencer P A R) (hs : R s) (hf : s.rxFill ≠ 0#11) :
    P (checkReply (storeReplyLength s)) := by
  unfold Machine.checkReply
  dsimp only
  split
  · exact h.rejected _ s _ hs rfl
  · refine h.awaitAckWrite rfl (h.accepted _ _ s hs hf ?_)
    rename_i hok
    simpa [imp_iff_not_or] using hok

theorem replyComplete (h : KeptBySequencer P A R) (hs : R s) : P (replyComplete s) := by
  unfold Machine.replyComplete
  split
  · exact h.rejected _ s _ hs rfl
  · split
    · exact h.rejected _ s _ hs rfl
    · exact h.checkReply hs ‹_›

theorem awaitReply (h : KeptBySequencer P A R) (hc : s.call = .readReply) (hs : P s) : P (awaitReply s) := by
  rw [awaitReply_eq]
  exact h.accum _ s (.inr hc) hs fun t ht hP => h.replyComplete (h.replyEnded t (ht.trans hc) hP)

theorem ackReceived (h : KeptBySequencer P A R) (hs : A s) (hv : s.ackV = true) (hb : s.ackByte = ACK) :
    P (ackReceived s) := by
  unfold Machine.ackReceived
  dsimp only
  split
  · exact h.awaitReply rfl (h.acknowledged s hs hv hb)
  · exact h.replyComplete (h.coalesced s hs hv hb)

theorem firstByteTest (h : KeptBySequencer P A R) (hs : A s) : P (firstByteTest s) := by
  unfold Machine.firstByteTest
  split
  · rename_i hack
    obtain ⟨hv, hb⟩ := hack
    exact h.ackReceived hs hv hb
  · exact h.noAck s hs

theorem awaitAck (h : KeptBySequencer P A R) (hc : s.call = .readAck) (hs : P s) : P (awaitAck s) := by
  rw [awaitAck_eq]
  exact h.accum _ s (.inl hc) hs fun t ht hP => h.firstByteTest (h.ackEnded t (ht.trans hc) hP)

theorem awaitRequestWrite (h : KeptBySequencer P A R) (hc : s.call = .writeRequest) (hs : P s) :
    P (awaitRequestWrite s) := by
  unfold Machine.awaitRequestWrite
  split
  · exact hs
  · have hw := h.wTaken ‹_› s hs
    split
    · exact h.awaitAck rfl (h.requestSent _ hc hw)
    · exact h.writeFailed _ (.inl hc) hw

/-- An operation that goes on keeps the property. -/
theorem resume (h : KeptBySequencer P A R) (hs : P s) : P (resume s) := by
  cases hc : s.call with
  | none_ => rwa [resume_of_call_none hc]
  | writeRequest => rw [resume_of_writeRequest hc]; exact h.awaitRequestWrite hc hs
  | readAck => rw [resume_of_readAck hc]; exact h.awaitAck hc hs
  | readReply => rw [resume_of_readReply hc]; exact h.awaitReply hc hs
  | writeAck => rw [resume_of_writeAck hc]; exact h.awaitAckWrite hc hs

end KeptBySequencer

/-! ### The step -/

/-- A property that the transitions of an exchange keep, its start on an idle block, and every event. -/
structure KeptByStanding (P A R : State → Prop) : Prop extends KeptBySequencer P A R where
  idle : ∀ s t, s.isIdle = true → SameStanding s t → P s → P t
  start : ∀ o s, o ≠ .none_ → s.isIdle = true → P s → P (callWrite (txFrame s) .writeRequest (clearExchange o s))
  read : ∀ r s, P s → P (hostRead r s)
  reset : ∀ s, P s → P (resetBlock s)
  inbox : ∀ es s, P s → P (leaveInbox es s)

namespace KeptByStanding

variable {P A R : State → Prop}

theorem whenIdle {f : State → State} {s : State} (hs : P s) (hf : s.isIdle = true → P (f s)) : P (whenIdle f s) := by
  unfold Machine.whenIdle
  split
  · exact hf ‹_›
  · exact hs

theorem startExchange (h : KeptByStanding P A R) {o : Op} {s : State} (ho : o ≠ .none_) (hi : s.isIdle = true)
    (hs : P s) : P (startExchange o s) :=
  h.awaitRequestWrite rfl (h.start o s ho hi hs)

theorem exchange (h : KeptByStanding P A R) {s : State} (hi : s.isIdle = true) (hs : P s) : P (exchange s) := by
  unfold Machine.exchange
  split
  · exact hs
  · exact h.startExchange nofun hi hs

theorem transaction (h : KeptByStanding P A R) {s : State} (hi : s.isIdle = true) (hs : P s) :
    P (transaction s) := by
  have he := encodeRequest_standing s
  have hP := h.idle s _ hi he hs
  unfold Machine.transaction
  dsimp only
  split
  · exact h.startExchange nofun (he.isIdle.trans hi) hP
  · exact hP

/-- Every operation started through OPSEL keeps the property. -/
theorem opsel (h : KeptByStanding P A R) (c : BitVec 3) (s t : State) (hs : P s)
    (ht : exec (decodeOpsel c) s = .next t) : P t := by
  unfold decodeOpsel at ht
  split at ht <;> cases ht
  · exact hs
  · exact whenIdle hs fun hi => h.idle s _ hi ⟨rfl, rfl, rfl, rfl⟩ hs
  · exact whenIdle hs fun hi => h.idle s _ hi ⟨rfl, rfl, rfl, rfl⟩ hs
  · exact whenIdle hs fun hi => h.idle s _ hi (encodeRequest_standing s) hs
  · exact whenIdle hs fun hi => h.idle s _ hi (decodeResponse_standing _ s) hs
  · exact whenIdle hs fun hi => h.exchange hi hs
  · exact whenIdle hs fun hi => h.transaction hi hs
  · exact hs

/-- A step keeps the property. -/
theorem step (h : KeptByStanding P A R) (s t : State) (hs : P s) (ht : step s = .next t) : P t := by
  unfold Machine.step nextStep at ht
  split at ht
  · cases ht
    exact h.resume hs
  · rename_i e es he
    have hs' : P (leaveInbox es s) := h.inbox es s hs
    cases e with
    | opsel c => exact h.opsel c _ t hs' ht
    | write w =>
      obtain ⟨hi, _, rfl⟩ | ⟨_, rfl⟩ := hostWrite_cases w _ t ht
      · exact h.idle _ _ hi (writeIdle_standing w _) hs'
      · exact hs'
    | read r => cases ht; exact h.read _ _ hs'
    | reset => cases ht; exact h.reset _ hs'
    | wAnswer a => cases ht; exact h.resume (h.wTaken _ _ hs')
    | rAnswer a => cases ht; exact h.resume (h.rTaken _ _ hs')

end KeptByStanding

end Sys2Proof.Machine
end

section
/-! The sequencer's state hangs together in every step (10_state.md R24; 42_exchange.md R157, R161, R164, R170). -/

namespace Sys2Proof.Machine

open Sys2Proof.Safety

/-! ### What coherence says in each call -/

/-- What the start actions clear, as it stays until the reply is stored (42_exchange.md R157). -/
def Cleared (s : State) : Prop :=
  s.op ≠ .none_ ∧ s.err = .none_ ∧ s.errInfo = 0x00#8 ∧ s.rkind = .none_ ∧ s.noAckV = false ∧ s.rxLen = 0#11 ∧
    s.bccErr = false

/-- ACK was the first byte accumulated (42_exchange.md R161). -/
def AckSeen (s : State) : Prop := s.ackV = true ∧ s.ackByte = ACK

/-- The reply is stored and its checksum stands or is forgiven (42_exchange.md R164 to R166). -/
def ReplyShown (s : State) : Prop :=
  s.op ≠ .none_ ∧ s.err = .none_ ∧ s.errInfo = 0x00#8 ∧ s.rkind = .none_ ∧ s.noAckV = false ∧
    s.rxLen = s.rxFill ∧ s.rxFill ≠ 0#11 ∧ (s.bccErr = false ∨ s.strict = false)

section
variable {s : State}

theorem coherent_none (hc : s.call = .none_) :
    SequencerCoherent s ↔ s.xstate.isRest = true ∧ s.op = .none_ := by
  simp [SequencerCoherent, callAgrees, runningCleared, ackSeen, hc]

theorem coherent_writeRequest (hc : s.call = .writeRequest) :
    SequencerCoherent s ↔ s.xstate.isRest = true ∧ Cleared s := by
  simp [SequencerCoherent, callAgrees, runningCleared, ackSeen, Cleared, hc, and_assoc]

theorem coherent_readAck (hc : s.call = .readAck) :
    SequencerCoherent s ↔ s.xstate = .awaitingAck ∧ Cleared s := by
  simp [SequencerCoherent, callAgrees, runningCleared, ackSeen, Cleared, hc, and_assoc]

theorem coherent_readReply (hc : s.call = .readReply) :
    SequencerCoherent s ↔ s.xstate = .awaitingReply ∧ Cleared s ∧ AckSeen s := by
  simp [SequencerCoherent, callAgrees, runningCleared, ackSeen, Cleared, AckSeen, hc, and_assoc]

theorem coherent_writeAck (hc : s.call = .writeAck) :
    SequencerCoherent s ↔ s.xstate = .replyReceived ∧ ReplyShown s ∧ AckSeen s := by
  simp [SequencerCoherent, callAgrees, runningCleared, ackSeen, ReplyShown, AckSeen, hc, and_assoc]

/-- An accumulation runs on cleared registers. -/
theorem cleared_of_reading (hc : s.call = .readAck ∨ s.call = .readReply) (hs : SequencerCoherent s) : Cleared s := by
  obtain hc | hc := hc
  · exact ((coherent_readAck hc).1 hs).2
  · exact ((coherent_readReply hc).1 hs).2.1

end

/-- An exchange that ends in a rest state leaves a coherent sequencer (42_exchange.md R170). -/
theorem failExchange_coherent (f : Err) (i : Byte) {x : XState} (s : State) (hx : x.isRest = true) :
    SequencerCoherent (failExchange f i x s) :=
  (coherent_none rfl).2 ⟨hx, rfl⟩

/-! ### The transitions -/

/-- Once the first byte is in ACKBYTE, later ones go elsewhere (42_exchange.md R154). -/
theorem storeByte_ackSeen {s : State} (b : Byte) (h : AckSeen s) : AckSeen (storeByte b s) := by
  obtain ⟨hv, he⟩ | ⟨_, _, he⟩ | ⟨_, _, he⟩ := storeByte_cases b s
  · simp [AckSeen, hv] at h
  · rw [he]; exact h
  · rw [he]; exact h

theorem storeByte_cleared {s : State} (b : Byte) (h : Cleared s) : Cleared (storeByte b s) := by
  rw [storeByte_frame]
  exact h

theorem storeByte_coherent (b : Byte) (s : State) (hc : s.call = .readAck ∨ s.call = .readReply)
    (hs : SequencerCoherent s) : SequencerCoherent (storeByte b s) := by
  have hx : (storeByte b s).xstate = s.xstate := by rw [storeByte_frame]
  obtain hc | hc := hc
  · obtain ⟨hxs, hcl⟩ := (coherent_readAck hc).1 hs
    exact (coherent_readAck ((storeByte_call b s).trans hc)).2 ⟨hx.trans hxs, storeByte_cleared b hcl⟩
  · obtain ⟨hxs, hcl, hack⟩ := (coherent_readReply hc).1 hs
    exact (coherent_readReply ((storeByte_call b s).trans hc)).2
      ⟨hx.trans hxs, storeByte_cleared b hcl, storeByte_ackSeen b hack⟩

/-- The ACK byte goes out with the reply stored and its checksum right or forgiven (42_exchange.md R164 to R168). -/
theorem accepted_coherent (ok : Bool) (b : Byte) (s : State) (hs : Cleared s ∧ AckSeen s) (hf : s.rxFill ≠ 0#11)
    (hok : ok = true ∨ s.strict = false) :
    SequencerCoherent
      (callWrite [ACK] .writeAck (setX .replyReceived (recordChecksum ok (setBccAcc b (storeReplyLength s))))) := by
  obtain ⟨⟨hop, herr, hinfo, hkind, hno, -, hbcc⟩, hv, hb⟩ := hs
  rw [coherent_writeAck (callWrite_call ..)]
  refine ⟨by simp, ?shown, by simp [AckSeen, hv, hb]⟩
  case shown => simpa [ReplyShown, hop, herr, hinfo, hkind, hno, hbcc, hf] using hok

/-- Coherence goes through an exchange with the registers cleared while it accumulates, and ACK seen from the reply
phase on. -/
theorem keptBySequencer_coherent :
    KeptBySequencer SequencerCoherent Cleared fun s => Cleared s ∧ AckSeen s where
  wTaken _ _ hs := hs
  rTaken _ _ hs := hs
  writeFailed s _ _ := failExchange_coherent _ _ s rfl
  requestSent _ hc hs := (coherent_readAck rfl).2 ⟨rfl, ((coherent_writeRequest hc).1 hs).2⟩
  chunk _ _ _ hs := hs
  store := storeByte_coherent
  readFailed _ _ _ := failExchange_coherent _ _ _ rfl
  ackEnded _ hc hs := cleared_of_reading (.inl hc) hs
  noAck _ _ := failExchange_coherent _ _ _ rfl
  acknowledged _ hs hv hb := (coherent_readReply rfl).2 ⟨rfl, hs, hv, hb⟩
  coalesced _ hs hv hb := ⟨hs, hv, hb⟩
  replyEnded _ hc hs := ((coherent_readReply hc).1 hs).2
  rejected _ _ t _ _ := failExchange_coherent _ _ t rfl
  accepted := accepted_coherent
  done s _ _ := by
    obtain ⟨hx, hop, -⟩ := handOver_standing (setX .done s)
    exact (coherent_none (handOver_call _)).2 ⟨by rw [hx]; rfl, hop⟩

theorem keptByStanding_coherent :
    KeptByStanding SequencerCoherent Cleared fun s => Cleared s ∧ AckSeen s where
  toKeptBySequencer := keptBySequencer_coherent
  idle s t hi ht hs := by
    have hc := call_of_isIdle hi
    rw [coherent_none (ht.call.trans hc), ht.xstate, ht.op]
    exact (coherent_none hc).1 hs
  start _ s ho hi _ := (coherent_writeRequest rfl).2 ⟨xstate_isRest_of_isIdle (s := s) hi, ho, rfl, rfl, rfl, rfl, rfl, rfl⟩
  read r s hs := by rw [hostRead_frame]; exact hs
  reset _ _ := (coherent_none rfl).2 ⟨rfl, rfl⟩
  inbox _ _ hs := hs

/-- Settles O51: coherence is kept by each transition of the sequencer. -/
theorem stepKeepsTheSequencerCoherent : Obligations.StepKeepsTheSequencerCoherent :=
  keptByStanding_coherent.step

end Sys2Proof.Machine
end

section
/-! What other agents observe keeps to the protocol (20_memory.md R61, R70, R71; 42_exchange.md R158 to R172). -/

namespace Sys2Proof.Machine

open Sys2Proof.Safety

/-! ### The phases a block in a call can stand in -/

section
variable {s t : State} {ph ph' : Phase} {o : Obs}

/-- Reset may come in any phase (70_reset_and_hazards.md R232). -/
theorem follow_reset : follow .reset ph = some (.rest .idle) := by cases ph <;> rfl

/-- A request goes out in a rest state only (42_exchange.md R158). -/
theorem follow_request {x : XState} (b : List Byte) (hx : x.isRest = true) :
    follow (.write b) (.rest x) = some (.requestOut x) := if_pos hx

/-- The one byte written back is ACK (42_exchange.md R168; 20_memory.md R71). -/
theorem follow_ack : follow (.write [ACK]) .replyReceived = some .ackOut := rfl

/-- One observation more follows the protocol from the phase of those before it. -/
theorem phaseOf_observe (h : phaseOf s.trace = some ph) (ho : follow o ph = some ph') :
    phaseOf (observe o s).trace = some ph' := by
  rw [observe_trace, phaseOf, h]
  exact ho

theorem phaseOf_setX {x : XState} (h : phaseOf s.trace = some ph) (ho : follow (.enter x) ph = some ph') :
    phaseOf (setX x s).trace = some ph' :=
  phaseOf_observe (s := { s with xstate := x }) h ho

theorem standsIn_none (hc : s.call = .none_) : standsIn s ph = true ↔ ph = .rest s.xstate := by
  cases ph <;> simp [standsIn, hc, eq_comm (a := s.xstate)]

theorem standsIn_writeRequest (hc : s.call = .writeRequest) : standsIn s ph = true ↔ ph = .requestOut s.xstate := by
  cases ph <;> simp [standsIn, hc, eq_comm (a := s.xstate)]

theorem standsIn_readAck (hc : s.call = .readAck) :
    standsIn s ph = true ↔ s.xstate = .awaitingAck ∧ ph = .awaitingAck := by
  cases ph <;> simp [standsIn, hc]

theorem standsIn_readReply (hc : s.call = .readReply) :
    standsIn s ph = true ↔ s.xstate = .awaitingReply ∧ (ph = .awaitingReply ∨ ph = .readingReply) := by
  cases ph <;> simp [standsIn, hc]

theorem standsIn_writeAck (hc : s.call = .writeAck) :
    standsIn s ph = true ↔ s.xstate = .replyReceived ∧ ph = .ackOut := by
  cases ph <;> simp [standsIn, hc]

/-- The protocol sees XSTATE, the call and the trace, and nothing else of a state. -/
theorem followsProtocol_congr (hs : FollowsProtocol s) (hc : t.call = s.call) (hx : t.xstate = s.xstate)
    (ht : t.trace = s.trace) : FollowsProtocol t := by
  obtain ⟨ph, hph, hst⟩ := hs
  refine ⟨ph, ht ▸ hph, ?_⟩
  rw [← hst]
  unfold standsIn
  rw [hc, hx]

/-- An exit of 42_exchange.md R170 follows the protocol where the phase allows it. -/
theorem failExchange_follows {f : Err} {i : Byte} {x : XState} (h : phaseOf s.trace = some ph)
    (ho : follow (.enter x) ph = some (.rest x)) : FollowsProtocol (failExchange f i x s) :=
  ⟨.rest x, phaseOf_setX (s := raise f i s) h ho, (standsIn_none rfl).2 rfl⟩

/-! ### The transitions -/

/-- Both writes may fail (42_exchange.md R158, R169). -/
theorem writeFailed_follows (hc : s.call = .writeRequest ∨ s.call = .writeAck) (hs : FollowsProtocol s) :
    FollowsProtocol (failExchange .transportError 0x00#8 .failTransport s) := by
  obtain ⟨ph, hph, hst⟩ := hs
  obtain hc | hc := hc
  · obtain rfl := (standsIn_writeRequest hc).1 hst
    exact failExchange_follows hph rfl
  · obtain ⟨-, rfl⟩ := (standsIn_writeAck hc).1 hst
    exact failExchange_follows hph rfl

theorem requestSent_follows (hc : s.call = .writeRequest) (hs : FollowsProtocol s) :
    FollowsProtocol (setCall .readAck (setX .awaitingAck (setX .sent s))) := by
  obtain ⟨ph, hph, hst⟩ := hs
  obtain rfl := (standsIn_writeRequest hc).1 hst
  exact ⟨.awaitingAck, phaseOf_setX (phaseOf_setX hph rfl) rfl, rfl⟩

/-- A chunk keeps the block in its accumulation (42_exchange.md R160, R162). -/
theorem chunk_follows (c : List Byte) (s : State) (hc : s.call = .readAck ∨ s.call = .readReply)
    (hs : FollowsProtocol s) : FollowsProtocol (observe (.read (.data c)) s) := by
  obtain ⟨ph, hph, hst⟩ := hs
  obtain hc | hc := hc
  · obtain ⟨hx, rfl⟩ := (standsIn_readAck hc).1 hst
    exact ⟨.awaitingAck, phaseOf_observe hph rfl, (standsIn_readAck hc).2 ⟨hx, rfl⟩⟩
  · obtain ⟨hx, rfl | rfl⟩ := (standsIn_readReply hc).1 hst <;>
      exact ⟨.readingReply, phaseOf_observe hph rfl, (standsIn_readReply hc).2 ⟨hx, .inr rfl⟩⟩

/-- Both accumulations may fail (42_exchange.md R160, R162). -/
theorem readFailed_follows (hc : s.call = .readAck ∨ s.call = .readReply) (hs : FollowsProtocol s) :
    FollowsProtocol (readFailed (observe (.read .err) s)) := by
  obtain ⟨ph, hph, hst⟩ := hs
  obtain hc | hc := hc
  · obtain ⟨-, rfl⟩ := (standsIn_readAck hc).1 hst
    exact failExchange_follows (ph := .ackErr) (phaseOf_observe hph rfl) rfl
  · obtain ⟨-, rfl | rfl⟩ := (standsIn_readReply hc).1 hst <;>
      exact failExchange_follows (ph := .replyErr) (phaseOf_observe hph rfl) rfl

theorem ackEnded_phase (hc : s.call = .readAck) (hs : FollowsProtocol s) :
    phaseOf (observe (.read .endOfStream) s).trace = some .ackEnded := by
  obtain ⟨ph, hph, hst⟩ := hs
  obtain ⟨-, rfl⟩ := (standsIn_readAck hc).1 hst
  exact phaseOf_observe hph rfl

theorem replyEnded_phase (hc : s.call = .readReply) (hs : FollowsProtocol s) :
    phaseOf (observe (.read .endOfStream) s).trace = some .replyEnded := by
  obtain ⟨ph, hph, hst⟩ := hs
  obtain ⟨-, rfl | rfl⟩ := (standsIn_readReply hc).1 hst <;> exact phaseOf_observe hph rfl

theorem awaitingReply_phase (h : phaseOf s.trace = some .ackEnded) :
    phaseOf (setX .awaitingReply (setX .ackReceived s)).trace = some .awaitingReply :=
  phaseOf_setX (phaseOf_setX h rfl) rfl

/-- The reply has been accumulated: coalesced with the ACK byte, or by a second accumulation (42_exchange.md R162). -/
def ReplyAccumulated (s : State) : Prop :=
  phaseOf s.trace = some .awaitingReply ∨ phaseOf s.trace = some .replyEnded

/-- The ACK byte goes out after the reply was checked (42_exchange.md R165, R168). -/
theorem ackOut_follows (h : ReplyAccumulated s) :
    FollowsProtocol (callWrite [ACK] .writeAck (setX .replyReceived s)) := by
  have hr : phaseOf (setX .replyReceived s).trace = some .replyReceived :=
    h.elim (phaseOf_setX · rfl) (phaseOf_setX · rfl)
  exact ⟨.ackOut, phaseOf_observe hr follow_ack, rfl⟩

theorem done_follows (hc : s.call = .writeAck) (hs : FollowsProtocol s) :
    FollowsProtocol (handOver (setX .done s)) := by
  obtain ⟨ph, hph, hst⟩ := hs
  obtain ⟨-, rfl⟩ := (standsIn_writeAck hc).1 hst
  obtain ⟨hx, -, ht⟩ := handOver_standing (setX .done s)
  refine ⟨.rest .done, ?_, (standsIn_none (handOver_call _)).2 ?_⟩
  · rw [ht]
    exact phaseOf_setX hph rfl
  · rw [hx]
    rfl

/-- A start hands the request to TWrite in the rest state the block stands in (42_exchange.md R157, R158). -/
theorem start_follows (o : Op) (hi : s.isIdle = true) (hs : FollowsProtocol s) :
    FollowsProtocol (callWrite (txFrame s) .writeRequest (clearExchange o s)) := by
  obtain ⟨ph, hph, hst⟩ := hs
  obtain rfl := (standsIn_none (call_of_isIdle hi)).1 hst
  exact ⟨.requestOut s.xstate, phaseOf_observe (s := clearExchange o s) hph (follow_request _ (xstate_isRest_of_isIdle hi)),
    (standsIn_writeRequest rfl).2 rfl⟩

end

/-- Reset leads a trace that keeps to the protocol to the idle rest state (70_reset_and_hazards.md R230). -/
theorem resetBlock_follows (s : State) (hs : FollowsProtocol s) : FollowsProtocol (resetBlock s) := by
  obtain ⟨ph, hph, -⟩ := hs
  exact ⟨.rest .idle, phaseOf_observe (s := s) hph follow_reset, rfl⟩

/-- The protocol goes through an exchange with one phase at the end of each accumulation. -/
theorem keptBySequencer_followsProtocol :
    KeptBySequencer FollowsProtocol (fun s => phaseOf s.trace = some .ackEnded) ReplyAccumulated where
  wTaken _ _ hs := hs
  rTaken _ _ hs := hs
  writeFailed _ := writeFailed_follows
  requestSent _ := requestSent_follows
  chunk := chunk_follows
  store b s _ hs := followsProtocol_congr hs (storeByte_call b s) (by rw [storeByte_frame]) (by rw [storeByte_frame])
  readFailed _ := readFailed_follows
  ackEnded _ := ackEnded_phase
  noAck _ hs := failExchange_follows (s := forgetReply (recordNoAckByte _)) hs rfl
  acknowledged _ hs _ _ := ⟨.awaitingReply, awaitingReply_phase hs, rfl⟩
  coalesced _ hs _ _ := .inl (awaitingReply_phase hs)
  replyEnded _ hc hs := .inr (replyEnded_phase hc hs)
  rejected _ _ _ hs ht := hs.elim (fun hs => failExchange_follows (ht ▸ hs) rfl)
    fun hs => failExchange_follows (ht ▸ hs) rfl
  accepted ok b s hs _ _ := ackOut_follows (s := recordChecksum ok (setBccAcc b (storeReplyLength s))) hs
  done _ := done_follows

theorem keptByStanding_followsProtocol :
    KeptByStanding FollowsProtocol (fun s => phaseOf s.trace = some .ackEnded) ReplyAccumulated where
  toKeptBySequencer := keptBySequencer_followsProtocol
  idle _ _ _ ht hs := followsProtocol_congr hs ht.call ht.xstate ht.trace
  start o _ _ := start_follows o
  read r s hs := by rw [hostRead_frame]; exact hs
  reset := resetBlock_follows
  inbox _ _ hs := hs

/-- Settles O52: each transition of the sequencer follows the protocol. -/
theorem stepKeepsTheProtocol : Obligations.StepKeepsTheProtocol :=
  keptByStanding_followsProtocol.step

end Sys2Proof.Machine
end

section
/-! Refused starts, the invariants at reset, and the host's reads and writes (10_state.md R39, R40, R41). -/

namespace Sys2Proof.Machine

open Sys2Proof.Safety

/-! ### Refused starts and reset -/

/-- A frame or an operation on a busy block is refused (10_state.md R39). -/
theorem exec_of_busy {i : Instr} {s : State} (hp : i.port ≠ .token) (h : s.isIdle = false) : exec i s = .next s := by
  cases i with
  | ack => exact absurd rfl hp
  | nak => exact absurd rfl hp
  | eot => exact absurd rfl hp
  | none_ => rfl
  | reserved7 => rfl
  | _ => exact congrArg Host.Outcome.next (whenIdle_of_busy h)

theorem exchange_of_no_frame {s : State} (h : s.txLen = 0#11) : exchange s = s := if_pos h

/-- XCHG without a frame is refused on an idle block too (42_exchange.md R156). -/
theorem exec_xchg_of_no_frame {s : State} (h : s.txLen = 0#11) : exec .xchg s = .next s := by
  refine congrArg Host.Outcome.next ?_
  unfold whenIdle
  split
  · exact exchange_of_no_frame h
  · rfl

/-- Settles O13: every start goes through the test for an idle block, and XCHG through that for a frame. -/
theorem refusedStartsChangeNothing : Obligations.RefusedStartsChangeNothing :=
  ⟨fun _ _ hp h => exec_of_busy hp h, fun _ h => exec_xchg_of_no_frame h⟩

/-- Settles O53: the reset table shows no frame, no failure and no operation. -/
theorem resetMeetsTheInvariants : Obligations.ResetMeetsTheInvariants := by
  refine ⟨reset_buffers_wf, ?lengths, .inl rfl, ?cfg, ?sequencer, ?protocol⟩
  case lengths => exact ⟨Nat.zero_le _, Nat.zero_le _⟩
  case cfg => exact (rfl : 0x01#8 &&& 0xFE#8 = 0x00#8)
  case sequencer => exact ⟨rfl, rfl, rfl⟩
  case protocol => exact ⟨.rest .idle, rfl, rfl⟩

/-! ### Host reads -/

section
variable {r : HostRead} {es : List Event} {s : State}

/-- The step that serves a read with a defined value. -/
theorem step_read_found {v : Word16} (hv : readValue r s = some v) (h : s.inbox = .read r :: es) :
    step s = .next { leaveInbox es s with hostData := v } :=
  (step_read r es s h).trans (congrArg _ (hostRead_some r (leaveInbox es s) v hv))

/-- The step that serves a read without one returns a free value (log entry 8). -/
theorem step_read_free (hv : readValue r s = none) (h : s.inbox = .read r :: es) :
    step s = .next { leaveInbox es s with hostData := Config.undefinedRead s.freeCtr, freeCtr := s.freeCtr + 1 } :=
  (step_read r es s h).trans (congrArg _ (hostRead_none r (leaveInbox es s) hv))

end

/-- Settles O54: what each read finds, from the table of the registers and the lengths of the buffers. -/
theorem hostAccessWhileBusyIsRefused : Obligations.HostAccessWhileBusyIsRefused := by
  intro s es finds findsNothing
  refine ⟨fun hi => ⟨?busyWrite, ?busyXstate, ?busyRead⟩, fun hi => ?_, rfl, rfl, rfl⟩
  case busyWrite => exact fun w h => (step_write w es s h).trans (hostWrite_busy w (leaveInbox es s) hi)
  case busyXstate => exact step_read_found ((readValue_busy _ s hi).trans (if_pos rfl))
  case busyRead => exact fun r hr => step_read_free ((readValue_busy r s hi).trans (if_neg hr))
  have found (r : Reg) (v : Word16) (hv : regValue r s = some v) : finds (.reg r) v :=
    step_read_found ((readValue_reg r s hi).trans hv)
  have free (r : Reg) (hv : regValue r s = none) : findsNothing (.reg r) :=
    step_read_free ((readValue_reg r s hi).trans hv)
  have fresh {c : Prop} [Decidable c] (r : Reg) (v : Word16) (hv : regValue r s = if c then some v else none) :
      (c → finds (.reg r) v) ∧ (¬c → findsNothing (.reg r)) :=
    ⟨fun hc => found r v (hv.trans (if_pos hc)), fun hc => free r (hv.trans (if_neg hc))⟩
  refine ⟨?registers, ?status, ?code, ?view, ?hidden, fun i =>
    ⟨fun h => ?payload, fun h => ?noPayload, fun h hm => ?tx, fun h => ?noTx, fun h hm => ?rx, fun h => ?noRx⟩⟩
  case registers =>
    simp only [List.forall_mem_cons]
    exact ⟨found _ _ rfl, found _ _ rfl, found _ _ rfl, found _ _ rfl, found _ _ rfl, found _ _ rfl, found _ _ rfl,
      found _ _ rfl, found _ _ rfl, found _ _ rfl, found _ _ rfl, found _ _ rfl, found _ _ rfl, found _ _ rfl,
      found _ _ rfl, found _ _ rfl, found _ _ rfl, found _ _ rfl, nofun⟩
  case status =>
    simp only [List.forall_mem_cons]
    exact ⟨fresh _ _ rfl, fresh _ _ rfl, fresh _ _ rfl, nofun⟩
  case code =>
    simp only [List.forall_mem_cons]
    exact ⟨fresh _ _ rfl, fresh _ _ rfl, nofun⟩
  case view =>
    simp only [List.forall_mem_cons]
    exact ⟨⟨fun h => found _ _ (if_neg h), fun h => free _ (if_pos h)⟩,
      ⟨fun h => found _ _ (if_neg h), fun h => free _ (if_pos h)⟩, nofun⟩
  case hidden =>
    simp only [List.forall_mem_cons]
    exact ⟨free _ rfl, free _ rfl, free _ rfl, free _ rfl, nofun⟩
  case payload => exact step_read_found ((readValue_payload i s hi).trans (if_pos h))
  case noPayload => exact step_read_free ((readValue_payload i s hi).trans (if_neg (Nat.not_lt.2 h)))
  case tx => exact step_read_found ((readValue_txBuf i s hi).trans (bufferValue_below _ _ _ i h hm))
  case noTx => exact step_read_free ((readValue_txBuf i s hi).trans (bufferValue_above _ _ _ i h))
  case rx => exact step_read_found ((readValue_rxBuf i s hi).trans (bufferValue_below _ _ _ i h hm))
  case noRx => exact step_read_free ((readValue_rxBuf i s hi).trans (bufferValue_above _ _ _ i h))

/-! ### Host writes -/

/-- The step that serves a write on an idle block. -/
theorem step_write_idle {w : HostWrite} {es : List Event} {s : State} (hi : s.isIdle = true) (hm : w.missing = none)
    (h : s.inbox = .write w :: es) : step s = .next (writeIdle w (leaveInbox es s)) :=
  (step_write w es s h).trans (hostWrite_idle w (leaveInbox es s) hi hm)

theorem missing_rxBuf {i : Nat} (b : Byte) (h : i < Config.maxFrame) : (HostWrite.rxBuf i b).missing = none :=
  if_pos h

/-- Of a byte written to CFG only bit 0 is kept (10_state.md R29). -/
theorem cfgWritten_eq (v : Byte) : cfgWritten v = if v.getLsbD 0 then 0x01#8 else 0x00#8 := by
  rw [cfgWritten, BitVec.and_one_eq_setWidth_ofBool_getLsbD]
  cases v.getLsbD 0 <;> rfl

/-- Settles O55: one row of `writeIdle` for each kind of write. -/
theorem hostWritesWhenIdle : Obligations.HostWritesWhenIdle := by
  intro s es w hi h
  have wrote (hm : w.missing = none) : step s = .next (writeIdle w (leaveInbox es s)) := step_write_idle hi hm h
  refine ⟨?_, ?_, ?_, ?_, ?_, ?_, ?cfg, ?_, ?_, ?_, ?rxBuf⟩
  case cfg =>
    rintro v rfl
    rw [wrote rfl, ← cfgWritten_eq]
    rfl
  case rxBuf =>
    rintro i b rfl hlt
    exact ⟨_, wrote (missing_rxBuf b hlt), rfl, Memory.get_put_same .rx s.rxBuf i b,
      fun j hj => Memory.get_put_other .rx s.rxBuf i j b hj⟩
  -- In every other row the statement is `writeIdle` itself.
  all_goals
    intros
    subst w
    exact wrote rfl

end Sys2Proof.Machine
end

section
/-! The frame buffers and the bytes in them: their canonical form, the order of the LEN bytes, which bytes the decoder
reads, and the indices that do not exist (20_memory.md R60, R62, R65, R67). -/

namespace Sys2Proof.Machine

open Sys2Proof.Safety

/-! ### The decoder's bytes (20_memory.md R65) -/

section
variable {r r' : List Byte} {s : State}

/-- LEN and the discriminator are bytes 2 to 4 (41_frame_codec.md R130). -/
theorem readHeader_congr (h2 : byteAt r 2 = byteAt r' 2) (h3 : byteAt r 3 = byteAt r' 3)
    (h4 : byteAt r 4 = byteAt r' 4) : readHeader r s = readHeader r' s := by
  simp only [readHeader, h2, h3, h4]

/-- A positive reply is read at bytes 7 to 9 (41_frame_codec.md R134). -/
theorem decodePositive_congr (hn : r.length = r'.length)
    (h : byteAt r 7 = byteAt r' 7 ∧ byteAt r 8 = byteAt r' 8 ∧ byteAt r 9 = byteAt r' 9) :
    decodePositive r s = decodePositive r' s := by
  obtain ⟨h7, h8, h9⟩ := h
  simp only [decodePositive, hn, h7, h8, h9]

/-- A negative reply is read at bytes 6 and 7 (41_frame_codec.md R135). -/
theorem decodeNegative_congr (hn : r.length = r'.length)
    (h : byteAt r 6 = byteAt r' 6 ∧ byteAt r 7 = byteAt r' 7) : decodeNegative r s = decodeNegative r' s := by
  obtain ⟨h6, h7⟩ := h
  simp only [decodeNegative, hn, h6, h7]

/-- The discriminator selects which bytes are read; any other one reads none (41_frame_codec.md R136). -/
theorem decodeByKind_congr (hn : r.length = r'.length)
    (hpos : s.rdisc = PMT → byteAt r 7 = byteAt r' 7 ∧ byteAt r 8 = byteAt r' 8 ∧ byteAt r 9 = byteAt r' 9)
    (hneg : s.rdisc = EMT ∨ s.rdisc = EMT_ALT → byteAt r 6 = byteAt r' 6 ∧ byteAt r 7 = byteAt r' 7) :
    decodeByKind r s = decodeByKind r' s :=
  ite_congr rfl (fun hd => decodePositive_congr hn (hpos hd)) fun _ =>
    ite_congr rfl (fun hd => decodeNegative_congr hn (hneg hd)) fun _ => rfl

end

/-- Settles O24: the header is the same, so the same branch is taken, and each branch reads its own bytes. -/
theorem decoderReadsOnlyItsFields : Obligations.DecoderReadsOnlyItsFields := by
  intro r r' s hn h2 h3 h4 hpos hneg
  have hkind : decodeByKind r (readHeader r (startDecode s)) = decodeByKind r' (readHeader r' (startDecode s)) := by
    rw [← readHeader_congr h2 h3 h4]
    exact decodeByKind_congr hn hpos hneg
  simp only [decodeResponse, hn, hkind]

/-! ### The canonical form (20_memory.md R60, R67) -/

/-- A byte is stored below 1024 or not at all (42_exchange.md R154). -/
theorem storeByte_buffersCanonical (b : Byte) (s : State) (h : BuffersCanonical s) :
    BuffersCanonical (storeByte b s) := by
  obtain ⟨htx, hrx⟩ := h
  obtain ⟨_, he⟩ | ⟨_, hroom, he⟩ | ⟨_, _, he⟩ := storeByte_cases b s <;> rw [he]
  · exact ⟨htx, hrx⟩
  · exact ⟨htx, Memory.wf_put _ _ b hroom hrx⟩
  · exact ⟨htx, hrx⟩

/-- ENC.REQ stores a frame only when the buffer holds it whole (41_frame_codec.md R122). -/
theorem encodeRequest_buffersCanonical (s : State) (h : BuffersCanonical s) : BuffersCanonical (encodeRequest s) := by
  unfold encodeRequest
  split
  · exact h
  · refine ⟨Memory.wf_holding _ _ ?_, h.2⟩
    rw [builtFrame_length]
    exact Nat.not_lt.1 ‹_›

/-- A host write of RXBUF is served at an index that exists (10_state.md R39; log entry 13). -/
theorem writeIdle_buffersCanonical (w : HostWrite) (s : State) (h : BuffersCanonical s) (hm : w.missing = none) :
    BuffersCanonical (writeIdle w s) := by
  cases w with
  | rxBuf i b => exact ⟨h.1, Memory.wf_put _ i b (missing_none_rxBuf i b hm) h.2⟩
  | payload bs => unfold writeIdle; dsimp only; split <;> exact h
  | rxLen v => unfold writeIdle; dsimp only; split <;> exact h
  | _ => exact h

theorem keptByMachine_buffersCanonical : KeptByMachine BuffersCanonical where
  enter _ _ hs := hs
  observed _ _ hs := hs
  raise _ _ _ hs := hs
  endOp _ hs := hs
  forget s hs := ⟨hs.1, Memory.wf_forget s.rxBuf⟩
  store := storeByte_buffersCanonical
  wTaken _ _ hs := hs
  rTaken _ _ hs := hs
  reading _ _ hs := hs
  checksum _ _ hs := hs
  working _ _ hs := hs
  noAckByte _ hs := hs
  received _ hs := hs
  decode r s hs := by rw [decodeResponse_frame]; exact hs
  start _ s hs := ⟨hs.1, Memory.wf_forget s.rxBuf⟩
  compute _ hs := hs
  verify _ hs := hs
  encode := encodeRequest_buffersCanonical
  write := writeIdle_buffersCanonical
  read r s hs := by rw [hostRead_frame]; exact hs
  reset s _ := ⟨Memory.wf_forget s.txBuf, Memory.wf_forget s.rxBuf⟩
  inbox _ _ hs := hs

/-- Settles O47: a buffer is emptied, takes one byte below 1024, or takes a frame that fits. -/
theorem stepKeepsBuffersCanonical : Obligations.StepKeepsBuffersCanonical :=
  keptByMachine_buffersCanonical.step

/-! ### The LEN field (20_memory.md R62) -/

/-- A positive reply that fits, written byte by byte, decodes with the LEN of its bytes 2 and 3. -/
theorem decodeFrame_positive (stx addr h l : Byte) (body : List Byte) (hfit : fitsFrame body = true) :
    decodeFrame (stx :: addr :: h :: l :: PMT :: body) = .ok (.rspPos stx addr (be16 h l) body) := by
  have hbytes : stx :: addr :: h :: l :: PMT :: body = frameBytes stx addr (be16 h l) PMT body := by
    rw [frameBytes, hi_be16, lo_be16]
  rw [hbytes, decodeFrame_frameBytes _ _ _ _ _ hfit]
  exact if_pos rfl

/-- The two halves of a 16-bit value make it up again. -/
theorem hi_lo_toNat (v : Word16) : 256 * (hi v).toNat + (lo v).toNat = v.toNat := by
  rw [← be16_toNat, be16_hi_lo]

/-- Settles O5: the pair, the decoder and the encoder agree that the high byte comes first. -/
theorem lenFieldIsBigEndian : Obligations.LenFieldIsBigEndian :=
  ⟨be16_toNat,
    fun stx addr h l body hfit =>
      ⟨be16 h l, decodeFrame_positive stx addr h l body (decide_eq_true hfit), be16_toNat h l⟩,
    fun _ _ len _ => hi_lo_toNat len⟩

/-! ### Indices that do not exist (20_memory.md R60) -/

/-- On an idle block a write that misses its buffer is a fault (log entry 13). -/
theorem hostWrite_missing (w : HostWrite) (s : State) (i : Nat) (hi : s.isIdle = true) (hm : w.missing = some i) :
    hostWrite w s = .fault (.noSuchIndex i) := by
  simp [hostWrite, hi, hm]

/-- A write of TXBUF is refused on every block and at every index (10_state.md R25). -/
theorem hostWrite_txBuf (i : Nat) (b : Byte) (s : State) : hostWrite (.txBuf i b) s = .next s := by
  cases hi : s.isIdle with
  | false => exact hostWrite_busy _ s hi
  | true => exact hostWrite_idle _ s hi rfl

/-- A byte of a buffer at an index that does not exist has no value on any block (93_implementation_defined.md U5). -/
theorem readValue_missing {r : HostRead} {i : Nat} (s : State) (hr : r = .txBuf i ∨ r = .rxBuf i)
    (h : Config.maxFrame ≤ i) : readValue r s = none := by
  cases hi : s.isIdle with
  | false => obtain rfl | rfl := hr <;> exact (readValue_busy _ s hi).trans (if_neg nofun)
  | true =>
    obtain rfl | rfl := hr
    · exact (readValue_txBuf i s hi).trans (bufferValue_missing _ _ _ i h)
    · exact (readValue_rxBuf i s hi).trans (bufferValue_missing _ _ _ i h)

/-- Settles O56: only the write of RXBUF on an idle block reaches the test of the index. -/
theorem hostIndexOutsideABufferFaults : Obligations.HostIndexOutsideABufferFaults := by
  intro s es i b hlarge
  refine ⟨fun h hi => ?fault, fun h hi => ?busy, fun h => ?txWrite, fun h => ?read⟩
  case fault =>
    exact (step_write _ es s h).trans (hostWrite_missing _ (leaveInbox es s) i hi (if_neg (Nat.not_lt.2 hlarge)))
  case busy => exact (step_write _ es s h).trans (hostWrite_busy _ (leaveInbox es s) hi)
  case txWrite => exact (step_write _ es s h).trans (hostWrite_txBuf i b (leaveInbox es s))
  case read =>
    obtain h | h := h
    · exact step_read_free (readValue_missing s (.inl rfl) hlarge) h
    · exact step_read_free (readValue_missing s (.inr rfl) hlarge) h

end Sys2Proof.Machine
end

section
/-! The encodings: the decoder and the encoder undo each other at every port (30_encoding.md R83 to R92). -/

namespace Sys2Proof

open Machine

/-! ### Operation codes (30_encoding.md R92) -/

/-- The eight codes and the eight operations stand for each other. -/
theorem decodeOpsel_spec :
    ∀ c : BitVec 3, (decodeOpsel c).port = .command ∧ encode (decodeOpsel c) = [c.setWidth 8] := by
  decide

/-- A byte below 8 is its three low bits with zeros above. -/
theorem setWidth_code {b : Byte} (h : b.toNat < 8) : (b.setWidth 3).setWidth 8 = b := by
  apply BitVec.eq_of_toNat_eq
  rw [BitVec.toNat_setWidth, BitVec.toNat_setWidth]
  omega

/-- A code at the command port is decoded by its own value. -/
theorem decode_command (c : BitVec 3) : decode .command [c.setWidth 8] = .ok (decodeOpsel c) := by
  have hlt : (c.setWidth 8).toNat < 8 := by
    have := c.isLt
    rw [BitVec.toNat_setWidth]
    omega
  have hcode : (c.setWidth 8).setWidth 3 = c := by simp
  simp only [decode, if_pos hlt, hcode]

/-- No bit of the byte at the command port is dropped: one that is no code is rejected. -/
theorem decode_command_inv {bs : List Byte} {i : Instr} (h : decode .command bs = .ok i) :
    i.port = .command ∧ encode i = bs := by
  simp only [decode] at h
  split at h
  next b =>
    split at h
    next hlt =>
      obtain rfl := Except.ok.inj h
      obtain ⟨hport, hbytes⟩ := decodeOpsel_spec (b.setWidth 3)
      exact ⟨hport, by rw [hbytes, setWidth_code hlt]⟩
    next => cases h
  next => cases h

/-! ### Tokens (30_encoding.md R88) -/

/-- A byte that is a token is that token's encoding. -/
theorem decodeToken_inv {b : Byte} {i : Instr} (h : decodeToken b = .ok i) : i.port = .token ∧ encode i = [b] := by
  unfold decodeToken at h
  split at h
  · cases h; exact ⟨rfl, by rw [‹b = ACK›]; rfl⟩
  · split at h
    · cases h; exact ⟨rfl, by rw [‹b = NAK›]; rfl⟩
    · split at h
      · cases h; exact ⟨rfl, by rw [‹b = EOT›]; rfl⟩
      · cases h

theorem decode_token_inv {bs : List Byte} {i : Instr} (h : decode .token bs = .ok i) :
    i.port = .token ∧ encode i = bs := by
  simp only [decode] at h
  split at h
  · exact decodeToken_inv h
  · cases h

/-! ### Frames (30_encoding.md R83 to R86) -/

/-- Whatever the opcode map selects is encoded as the fields it was selected from. -/
theorem selectFrame_inv {stx addr d : Byte} {len : Word16} {body : List Byte} {i : Instr}
    (h : selectFrame stx addr len d body = .ok i) : i.port = .frame ∧ encode i = frameBytes stx addr len d body := by
  unfold selectFrame at h
  split at h
  · cases h; exact ⟨rfl, by rw [‹d = PMT›]; rfl⟩
  · split at h
    · cases h; exact ⟨rfl, by rw [‹d = EMT›]; rfl⟩
    · split at h
      · cases h; exact ⟨rfl, by rw [‹d = EMT_ALT›]; rfl⟩
      · split at h
        · obtain ⟨rfl, rfl⟩ := ‹d = CMT ∧ stx = STX›
          cases h; exact ⟨rfl, rfl⟩
        · cases h

/-- The two LEN bytes are not lost in the 16-bit LEN of the decoded frame. -/
theorem decodeFrame_inv {bs : List Byte} {i : Instr} (h : decodeFrame bs = .ok i) :
    i.port = .frame ∧ encode i = bs := by
  unfold decodeFrame at h
  split at h
  · cases h
  · split at h
    · obtain ⟨hport, hbytes⟩ := selectFrame_inv h
      exact ⟨hport, by rw [hbytes, frameBytes, hi_be16, lo_be16]⟩
    · cases h

/-- Settles O2, port by port. -/
theorem encodeOfDecodeIsTheBytes : Obligations.EncodeOfDecodeIsTheBytes := by
  intro p bs i h
  cases p with
  | command => exact decode_command_inv h
  | token => exact decode_token_inv h
  | frame => exact decodeFrame_inv h

/-! ### The round trip -/

/-- A frame that fits decodes to whatever the opcode map selects for its fields. -/
theorem decode_frame_of_fits {stx addr m : Byte} {len : Word16} {body : List Byte} {i : Instr}
    (hfit : fitsFrame body = true) (hsel : selectFrame stx addr len m body = .ok i) :
    decode .frame (frameBytes stx addr len m body) = .ok i :=
  (decodeFrame_frameBytes stx addr len m body hfit).trans hsel

/-- Settles O1: a frame that fits is selected by its marker; a token or a code is its one byte. -/
theorem decodeOfEncodeIsTheInstruction : Obligations.DecodeOfEncodeIsTheInstruction := by
  intro i hwf
  cases i with
  | req addr len body =>
    simp only [Instr.wellFormed, Bool.and_eq_true] at hwf
    obtain ⟨⟨⟨⟨hfit, -⟩, -⟩, -⟩, -⟩ := hwf
    exact decode_frame_of_fits hfit rfl
  | rspPos stx addr len body => exact decode_frame_of_fits hwf rfl
  | rspNeg stx addr len body => exact decode_frame_of_fits hwf rfl
  | rspNegAlt stx addr len body => exact decode_frame_of_fits hwf rfl
  | ack => rfl
  | nak => rfl
  | eot => rfl
  | none_ => exact decode_command 0#3
  | bccCompute => exact decode_command 1#3
  | bccVerify => exact decode_command 2#3
  | encReq => exact decode_command 3#3
  | decRsp => exact decode_command 4#3
  | xchg => exact decode_command 5#3
  | transact => exact decode_command 6#3
  | reserved7 => exact decode_command 7#3

/-- Settles O4: each word is the encoding of a well-formed instruction, so the round trip decodes it. -/
theorem writtenOutWordsDecode : Obligations.WrittenOutWordsDecode :=
  ⟨decodeOfEncodeIsTheInstruction (requestInstr 0x00#8 0x31#8 0x30#8 []) (by decide),
    decodeOfEncodeIsTheInstruction (.rspNeg 0xF2#8 0x00#8 5#16 [0x31#8, 0x31#8, 0x30#8, 0x30#8, 0x03#8, 0xB1#8])
      (by decide),
    decodeOfEncodeIsTheInstruction .nak rfl,
    decodeOfEncodeIsTheInstruction .xchg rfl⟩

end Sys2Proof
end

section
/-! What ENC.REQ writes, byte by byte (30_encoding.md R83, 41_frame_codec.md R120 to R124). -/

namespace Sys2Proof.Machine

/-- The checksum unit is a fold of the exclusive-or (40_checksum.md R110). -/
theorem xorFrom_eq_foldl (acc : Byte) (bs : List Byte) : xorFrom acc bs = bs.foldl (· ^^^ ·) acc := by
  induction bs generalizing acc with
  | nil => rfl
  | cons b bs ih => exact ih (acc ^^^ b)

theorem bcc_eq_foldl (bs : List Byte) : bcc bs = bs.foldl (· ^^^ ·) 0x00#8 := xorFrom_eq_foldl 0x00#8 bs

/-! ### The other bytes of the request frame -/

section
variable (addr cm pm : Byte) (data : List Byte)

theorem requestFrame_addr : byteAt (requestFrame addr cm pm data) 1 = addr := by
  simp [requestFrame, requestHead]

theorem requestFrame_lenHigh :
    byteAt (requestFrame addr cm pm data) 2 = hi (BitVec.ofNat 16 (data.length + 3)) := by
  simp [requestFrame, requestHead]

theorem requestFrame_lenLow :
    byteAt (requestFrame addr cm pm data) 3 = lo (BitVec.ofNat 16 (data.length + 3)) := by
  simp [requestFrame, requestHead]

theorem requestFrame_cm : byteAt (requestFrame addr cm pm data) 5 = cm := by
  simp [requestFrame, requestHead]

theorem requestFrame_pm : byteAt (requestFrame addr cm pm data) 6 = pm := by
  simp [requestFrame, requestHead]

/-- The payload is copied without change from index 7 on. -/
theorem requestFrame_payload {i : Nat} (h : i < data.length) :
    byteAt (requestFrame addr cm pm data) (7 + i) = byteAt data i := by
  rw [requestFrame, byteAt_append_left _ _ _ (by simp; omega), requestHead,
    byteAt_append_left _ _ _ (by simp; omega), byteAt_append_right _ _ _ (by simp)]
  simp

end

/-! ### The state ENC.REQ leaves when the frame fits -/

section
variable {s : State} (h : 9 + s.plen.toNat ≤ Config.maxFrame)
include h

theorem encodeRequest_of_fits :
    encodeRequest s =
      { clearFailure s with
        txBuf := s.txBuf.holding (builtFrame s)
        txLen := BitVec.ofNat 11 (9 + s.plen.toNat)
        bccAcc := bcc (requestHead s.raddr s.rcm s.rpm (payload s)) } :=
  if_neg (Nat.not_lt.2 h)

/-- TXLEN does not wrap: 1024 is below 2048. -/
theorem encodeRequest_txLen : (encodeRequest s).txLen.toNat = 9 + s.plen.toNat := by
  rw [encodeRequest_of_fits h]
  have : 9 + s.plen.toNat < 2 ^ 11 := by unfold Config.maxFrame at h; omega
  exact (BitVec.toNat_ofNat ..).trans (Nat.mod_eq_of_lt this)

theorem encodeRequest_txBuf_get {i : Nat} (hlt : i < 9 + s.plen.toNat) :
    (encodeRequest s).txBuf.get .tx i = byteAt (builtFrame s) i := by
  rw [encodeRequest_of_fits h]
  exact Memory.get_holding _ _ _ _ (by rwa [builtFrame_length])

theorem txFrame_encodeRequest : txFrame (encodeRequest s) = builtFrame s := by
  rw [txFrame, encodeRequest_txLen h, ← builtFrame_length, encodeRequest_of_fits h]
  exact Memory.take_holding _ _ _

/-- The last byte is the checksum of everything emitted before it (41_frame_codec.md R123). -/
theorem encodeRequest_txBuf_bcc :
    (encodeRequest s).txBuf.get .tx (8 + s.plen.toNat) =
      bcc ((encodeRequest s).txBuf.take .tx (8 + s.plen.toNat)) := by
  have hlen : 8 + s.plen.toNat + 1 = (encodeRequest s).txLen.toNat := by rw [encodeRequest_txLen h]; omega
  have hsplit : (encodeRequest s).txBuf.take .tx (8 + s.plen.toNat) ++
        [(encodeRequest s).txBuf.get .tx (8 + s.plen.toNat)] =
      requestHead s.raddr s.rcm s.rpm (payload s) ++ [bcc (requestHead s.raddr s.rcm s.rpm (payload s))] := by
    rw [← Memory.take_succ, hlen]
    exact txFrame_encodeRequest h
  obtain ⟨hhead, hlast⟩ := List.append_inj' hsplit rfl
  rw [hhead]
  exact List.head_eq_of_cons_eq hlast

end

/-- LEN of a request that fits does not wrap (30_encoding.md R82). -/
theorem requestLen_toNat {n : Nat} (h : n ≤ 1015) : (BitVec.ofNat 16 (n + 3)).toNat = n + 3 :=
  (BitVec.toNat_ofNat ..).trans (Nat.mod_eq_of_lt (by omega))

/-- Settles O14: each byte of TXBUF is the byte of the built frame at its index. -/
theorem encReqWritesTheRequestFrame : Obligations.EncReqWritesTheRequestFrame := by
  intro s hidle hsize
  have hfits : 9 + s.plen.toNat ≤ Config.maxFrame := by unfold Config.maxFrame; omega
  have hget {i : Nat} (hlt : i < 9 + s.plen.toNat) := encodeRequest_txBuf_get hfits hlt
  refine ⟨encodeRequest s, congrArg _ (whenIdle_of_isIdle hidle), encodeRequest_txLen hfits,
    ?stx, ?addr, ?lenHigh, ?lenLow, ?cmt, ?cm, ?pm, fun i hlt => ?payload, ?etx, ?checksum, ?frame⟩
  case stx => exact (hget (by omega)).trans (requestFrame_stx ..)
  case addr => exact (hget (by omega)).trans (requestFrame_addr ..)
  case lenHigh =>
    rw [hget (by omega), builtFrame, requestFrame_lenHigh, hi_toNat, payload_length, requestLen_toNat hsize]
  case lenLow =>
    rw [hget (by omega), builtFrame, requestFrame_lenLow, lo_toNat, payload_length, requestLen_toNat hsize]
  case cmt => exact (hget (by omega)).trans (requestFrame_cmt ..)
  case cm => exact (hget (by omega)).trans (requestFrame_cm ..)
  case pm => exact (hget (by omega)).trans (requestFrame_pm ..)
  case payload =>
    exact (hget (by omega)).trans (requestFrame_payload _ _ _ _ (by rwa [payload_length]))
  case etx =>
    rw [hget (by omega), Nat.add_comm, ← payload_length]
    exact requestFrame_etx ..
  case checksum => rw [encodeRequest_txBuf_bcc hfits, bcc_eq_foldl]
  case frame => rw [encodeRequest_of_fits hfits]; rfl

end Sys2Proof.Machine
end

section
/-! The codes without an operation, and the step that runs what the decoder reads (30_encoding.md R92, log entry 4). -/

namespace Sys2Proof.Machine

/-- Settles O12: neither code has an operation. -/
theorem noneAndReservedChangeNothing : Obligations.NoneAndReservedChangeNothing := fun _ => ⟨rfl, rfl⟩

/-- A step that serves a write of OPSEL. -/
theorem step_opsel {c : BitVec 3} {es : List Event} {s : State} (h : s.inbox = .opsel c :: es) :
    step s = exec (decodeOpsel c) (leaveInbox es s) := by
  simp [step, nextStep, h, serve]

theorem step_of_no_event {s : State} (h : s.inbox = []) : step s = .next (resume s) := by
  simp [step, nextStep, h]

/-- A frame row hands its own bytes to the decoder (log entry 4). -/
theorem exec_of_frame {i : Instr} (s : State) (h : i.port = .frame) :
    exec i s = .next (whenIdle (decodeResponse (encode i)) s) := by
  cases i with
  | req | rspPos | rspNeg | rspNegAlt => rfl
  | _ => cases h

/-- DEC.RSP runs the frame it finds in RXBUF (41_frame_codec.md R131). -/
theorem exec_decRsp_of_decode {i : Instr} {s : State} (h : decode .frame (rxReply s) = .ok i) :
    exec .decRsp s = exec i s := by
  obtain ⟨hport, hbytes⟩ := encodeOfDecodeIsTheBytes _ _ _ h
  rw [exec_of_frame s hport, hbytes]
  rfl

/-- A token row puts its byte first in the acknowledge accumulation. -/
theorem exec_of_token {i : Instr} {b : Byte} (s : State) (h : decode .token [b] = .ok i) :
    exec i s = .next (tokenFirst b s) := by
  obtain ⟨hport, hbytes⟩ := encodeOfDecodeIsTheBytes _ _ _ h
  cases i with
  | ack | nak | eot => obtain rfl := List.head_eq_of_cons_eq hbytes; rfl
  | _ => cases hport

/-- The byte that was accumulated first is the byte the test of R161 reads. -/
theorem tokenFirst_ackByte {s : State} (hcall : s.call = .readAck) (hv : s.ackV = true) :
    tokenFirst s.ackByte s = firstByteTest s := by
  rw [tokenFirst, if_pos hcall, ← hv]

/-- The end of the first accumulation runs the first-byte test (42_exchange.md R161). -/
theorem resume_of_ackEnded {s : State} {r : List RAnswer} (hcall : s.call = .readAck)
    (hr : s.rAns = .endOfStream :: r) :
    resume s = firstByteTest (observe (.read .endOfStream) (leaveR r s)) := by
  rw [resume_of_readAck hcall, awaitAck_eq, hr]
  rfl

/-- Settles O59, one place of fetch after the other. -/
theorem stepRunsTheDecodedInstruction : Obligations.StepRunsTheDecodedInstruction := by
  refine fun s i => ⟨fun c es hin hdec => ?code, fun es hin hdec => ?frame, fun r hin hcall hv hdec hr => ?token⟩
  case code =>
    obtain rfl := Except.ok.inj ((decode_command c).symm.trans hdec)
    exact step_opsel hin
  case frame => exact (step_opsel hin).trans (exec_decRsp_of_decode (s := leaveInbox es s) hdec)
  case token =>
    rw [step_of_no_event hin, resume_of_ackEnded hcall hr, exec_of_token _ hdec]
    exact congrArg _ (tokenFirst_ackByte (s := observe _ (leaveR r s)) hcall hv).symm

end Sys2Proof.Machine
end

section
/-! The laws of the checksum (40_checksum.md R110 to R116) and the two operations of the checksum unit. -/

namespace Sys2Proof.Machine

/-! ### The checksum over the structure of a byte sequence -/

@[simp] theorem bcc_nil : bcc [] = 0x00#8 := rfl

@[simp] theorem bcc_cons (b : Byte) (bs : List Byte) : bcc (b :: bs) = b ^^^ bcc bs :=
  calc
    bcc (b :: bs) = xorFrom b bs := congrArg (xorFrom · bs) BitVec.zero_xor
    _ = b ^^^ bcc bs := xorFrom_start b bs

/-- The value of a concatenation is the exclusive-or of the values (40_checksum.md R111). -/
theorem bcc_append (bs cs : List Byte) : bcc (bs ++ cs) = bcc bs ^^^ bcc cs :=
  (xorFrom_append 0x00#8 bs cs).trans (xorFrom_start (bcc bs) cs)

/-- The order of the bytes does not matter (40_checksum.md R111). -/
theorem bcc_perm {bs cs : List Byte} (h : bs.Perm cs) : bcc bs = bcc cs := by
  induction h with
  | nil => rfl
  | cons b _ ih => rw [bcc_cons, bcc_cons, ih]
  | swap b c bs =>
    simp only [bcc_cons]
    ac_rfl
  | trans _ _ ih₁ ih₂ => exact ih₁.trans ih₂

/-- Each bit is a parity: a byte with the bit set turns it, another one keeps it (40_checksum.md R111). -/
theorem bcc_getLsbD (bs : List Byte) (i : Nat) :
    (bcc bs).getLsbD i = ((bs.filter fun b => b.getLsbD i).length % 2 == 1) := by
  induction bs with
  | nil => simp
  | cons b bs ih =>
    rw [bcc_cons, BitVec.getLsbD_xor, ih, List.filter_cons]
    cases b.getLsbD i with
    | false => rw [Bool.false_xor, if_neg Bool.false_ne_true]
    | true =>
      rw [Bool.true_xor, if_pos rfl, List.length_cons, Bool.eq_iff_iff]
      simp only [Bool.not_eq_true', beq_eq_false_iff_ne, beq_iff_eq]
      omega

/-- Settles O6 by the three laws above. -/
theorem checksumIsBitwiseParity : Obligations.ChecksumIsBitwiseParity :=
  ⟨fun bs i _ => bcc_getLsbD bs i, bcc_append, fun _ _ => bcc_perm⟩

/-- Settles O7: the law that closes a built frame, for any byte sequence. -/
theorem checksumIsItsOwnInverse : Obligations.ChecksumIsItsOwnInverse := bcc_append_bcc

/-! ### Errors (40_checksum.md R116) -/

/-- An error pattern of the same length shifts the checksum by its own checksum. -/
theorem bcc_zipWith_xor {bs es : List Byte} (h : es.length = bs.length) :
    bcc (List.zipWith (· ^^^ ·) bs es) = bcc bs ^^^ bcc es := by
  induction bs generalizing es with
  | nil =>
    obtain rfl := List.eq_nil_of_length_eq_zero h
    rfl
  | cons b bs ih =>
    obtain ⟨e, es, rfl⟩ := List.exists_cons_of_length_eq_add_one h
    rw [List.zipWith_cons_cons, bcc_cons, bcc_cons, bcc_cons, ih (Nat.succ.inj h)]
    ac_rfl

/-- An error in one byte shifts the checksum by that error. -/
theorem bcc_set_xor {bs : List Byte} {i : Nat} (e : Byte) (h : i < bs.length) :
    bcc (bs.set i (byteAt bs i ^^^ e)) = bcc bs ^^^ e := by
  induction bs generalizing i with
  | nil => cases h
  | cons b bs ih =>
    cases i with
    | zero =>
      rw [byteAt_zero, List.set_cons_zero, bcc_cons, bcc_cons]
      ac_rfl
    | succ i =>
      rw [byteAt_succ, List.set_cons_succ, bcc_cons, bcc_cons, ih (Nat.lt_of_succ_lt_succ h), BitVec.xor_assoc]

/-- Settles O8: a shift of the checksum is seen exactly when it is not 0. -/
theorem checksumDetectsOddErrors : Obligations.ChecksumDetectsOddErrors := by
  refine ⟨fun bs es hlen => ?pattern, fun bs i e hi he => ?oneByte⟩
  case pattern =>
    rw [bcc_zipWith_xor hlen]
    exact xor_left_eq_self_iff
  case oneByte =>
    rw [bcc_set_xor e hi]
    exact mt xor_left_eq_self_iff.1 he

/-! ### Verification of a whole buffer (40_checksum.md R113) -/

/-- The last byte is compared with the checksum of those before it. -/
theorem bufferVerifies_concat (bs : List Byte) (b : Byte) : bufferVerifies (bs ++ [b]) = (bcc bs == b) := by
  have hlen : (bs ++ [b]).length - 1 = bs.length := by simp
  have hlast : trailingByte (bs ++ [b]) = b := by
    rw [trailingByte, hlen, byteAt_append_right _ _ _ (Nat.le_refl _), Nat.sub_self, byteAt_zero]
  have hbody : bodyBytes (bs ++ [b]) = bs := by rw [bodyBytes, hlen, List.take_left]
  rw [bufferVerifies, verifies, hlast, hbody]

/-- Settles O9: the exclusive-or of two bytes is 0 exactly when they are equal. -/
theorem bufferVerifiesExactlyWhenItsChecksumIsZero : Obligations.BufferVerifiesExactlyWhenItsChecksumIsZero := by
  intro bs hne
  obtain ⟨body, last, rfl⟩ := (List.eq_nil_or_concat' bs).resolve_left hne
  rw [bufferVerifies_concat, beq_iff_eq, bcc_append, bcc_cons, bcc_nil, BitVec.xor_zero, BitVec.xor_eq_zero_iff]

/-! ### The two operations of the checksum unit -/

/-- A payload presented whole is the operand (log entry 7). -/
theorem payload_of_whole {s : State} (h : s.p.length = s.plen.toNat) : payload s = s.p := by
  rw [payload, ← h, presentedFrom_whole]

theorem exec_bccCompute_of_isIdle {s : State} (h : s.isIdle = true) : exec .bccCompute s = .next (computeBcc s) :=
  congrArg _ (whenIdle_of_isIdle h)

theorem exec_bccVerify_of_isIdle {s : State} (h : s.isIdle = true) : exec .bccVerify s = .next (verifyBcc s) :=
  congrArg _ (whenIdle_of_isIdle h)

/-- Settles O10: the checksum unit is the fold over the payload. -/
theorem bccComputeWritesTheExclusiveOr : Obligations.BccComputeWritesTheExclusiveOr := by
  intro s hidle
  rw [exec_bccCompute_of_isIdle hidle, computeBcc, bcc_eq_foldl]
  exact ⟨rfl, payload_of_whole⟩

/-- Settles O11: the verdict compares that fold with BCCIN. -/
theorem bccVerifyComparesWithBccIn : Obligations.BccVerifyComparesWithBccIn := by
  intro s hidle
  rw [exec_bccVerify_of_isIdle hidle, verifyBcc, verifies, bcc_eq_foldl]

end Sys2Proof.Machine
end

section
/-! The request side of the codec: which requests are well-formed, and the frames ENC.REQ builds or refuses
(41_frame_codec.md R120 to R126). -/

namespace Sys2Proof

open Machine

/-! ### The well-formed requests (41_frame_codec.md R121, R126) -/

/-- A request's body of four bytes or more is CM, PM, DATA, ETX and BCC by position (30_encoding.md R83). -/
theorem exists_requestBody {body : List Byte} (h : 4 ≤ body.length) :
    ∃ (cm pm : Byte) (data : List Byte) (e b : Byte), body = [cm, pm] ++ data ++ [e, b] := by
  obtain ⟨cm, pm, rest, rfl⟩ : ∃ cm pm rest, body = cm :: pm :: rest := by
    match body, h with
    | cm :: pm :: rest, _ => exact ⟨cm, pm, rest, rfl⟩
  simp only [List.length_cons] at h
  obtain ⟨rest', b, rfl⟩ := (List.eq_nil_or_concat' rest).resolve_left (by rintro rfl; simp at h)
  obtain ⟨data, e, rfl⟩ := (List.eq_nil_or_concat' rest').resolve_left (by rintro rfl; simp at h)
  exact ⟨cm, pm, data, e, b, by simp⟩

section
variable {a cm pm e b : Byte} {data : List Byte} {len : Word16}

theorem endsWithEtx_iff : endsWithEtx ([cm, pm] ++ data ++ [e, b]) = true ↔ e = ETX := by
  have hindex : ([cm, pm] ++ data ++ [e, b]).length - 2 = ([cm, pm] ++ data).length := by simp
  rw [endsWithEtx, hindex, byteAt_append_right _ _ _ (Nat.le_refl _), Nat.sub_self, byteAt_zero, beq_iff_eq]

/-- Below the bound of the payload, LEN is the count of marker, CM, PM and payload (30_encoding.md R82). -/
theorem lenAgrees_iff (hdata : data.length ≤ 1015) :
    lenAgrees len ([cm, pm] ++ data ++ [e, b]) = true ↔ len = BitVec.ofNat 16 (data.length + 3) := by
  have hlen : ([cm, pm] ++ data ++ [e, b]).length = data.length + 3 + 1 := by simp
  rw [lenAgrees, beq_iff_eq, hlen, Nat.add_right_cancel_iff, ← BitVec.toNat_inj, requestLen_toNat hdata]

/-- The checksum condition names the last byte: it is the checksum of everything before it. -/
theorem requestBccHolds_iff :
    requestBccHolds a (BitVec.ofNat 16 (data.length + 3)) ([cm, pm] ++ data ++ [ETX, b]) = true ↔
      b = bcc (requestHead a cm pm data) := by
  have hbytes : [STX, a, hi (BitVec.ofNat 16 (data.length + 3)), lo (BitVec.ofNat 16 (data.length + 3)), CMT] ++
      ([cm, pm] ++ data ++ [ETX, b]) = requestHead a cm pm data ++ [b] := by simp [requestHead]
  rw [requestBccHolds, hbytes, beq_iff_eq, bcc_append, bcc_cons, bcc_nil, BitVec.xor_zero,
    BitVec.xor_eq_zero_iff, eq_comm]

/-- Well-formedness fixes LEN, ETX and BCC and leaves CM, PM and a payload that fits free. -/
theorem wellFormed_req_iff :
    (Instr.req a len ([cm, pm] ++ data ++ [e, b])).wellFormed = true ↔
      data.length ≤ Config.maxPayload ∧ len = BitVec.ofNat 16 (data.length + 3) ∧ e = ETX ∧
        b = bcc (requestHead a cm pm data) := by
  have hfits : fitsFrame ([cm, pm] ++ data ++ [e, b]) = true ↔ data.length ≤ Config.maxPayload := by
    simp [fitsFrame, Config.maxPayload, Config.maxFrame]; omega
  have htrailer : hasTrailer ([cm, pm] ++ data ++ [e, b]) = true := by simp [hasTrailer]
  simp only [Instr.wellFormed, Bool.and_eq_true, htrailer, and_true, hfits, endsWithEtx_iff, and_assoc]
  refine and_congr_right fun hdata => ?_
  rw [lenAgrees_iff hdata]
  refine and_congr_right fun hlen => and_congr_right fun he => ?_
  rw [hlen, he]
  exact requestBccHolds_iff

end

theorem encode_requestInstr (a cm pm : Byte) (data : List Byte) :
    encode (requestInstr a cm pm data) = requestFrame a cm pm data := by
  simp [requestInstr, encode, frameBytes, requestFrame, requestHead]

/-- Settles O3: the fields a well-formed request fixes are the ones ENC.REQ computes. -/
theorem wellFormedRequestsAreTheEncodersFrames : Obligations.WellFormedRequestsAreTheEncodersFrames := by
  refine ⟨fun a c p bs hsize => ⟨wellFormed_req_iff.2 ⟨hsize, rfl, rfl, rfl⟩, encode_requestInstr a c p bs⟩, ?_⟩
  intro a len body hwf
  have htrailer : 4 ≤ body.length := by
    simp only [Instr.wellFormed, Bool.and_eq_true] at hwf
    obtain ⟨⟨⟨⟨-, htrailer⟩, -⟩, -⟩, -⟩ := hwf
    exact of_decide_eq_true htrailer
  obtain ⟨c, p, bs, e, b, rfl⟩ := exists_requestBody htrailer
  obtain ⟨hsize, rfl, rfl, rfl⟩ := wellFormed_req_iff.1 hwf
  exact ⟨c, p, bs, hsize, rfl⟩

end Sys2Proof

namespace Sys2Proof.Machine

/-! ### ENC.REQ on an idle block (41_frame_codec.md R122, R126) -/

theorem exec_encReq_of_isIdle {s : State} (h : s.isIdle = true) : exec .encReq s = .next (encodeRequest s) :=
  congrArg _ (whenIdle_of_isIdle h)

/-- The size test comes before any byte of P is read (41_frame_codec.md R122). -/
theorem encodeRequest_of_tooLarge {s : State} (h : Config.maxFrame < 9 + s.plen.toNat) :
    encodeRequest s = { s with txLen := 0#11, err := .frameTooLarge, errInfo := 0x00#8 } :=
  if_pos h

/-- The frame is a function of the operands alone. -/
theorem builtFrame_congr {s s' : State} (haddr : s'.raddr = s.raddr) (hcm : s'.rcm = s.rcm) (hpm : s'.rpm = s.rpm)
    (hp : payload s' = payload s) : builtFrame s' = builtFrame s := by
  rw [builtFrame, builtFrame, haddr, hcm, hpm, hp]

/-- LEN + 6 is the number of bytes of a built frame (30_encoding.md R80). -/
theorem builtFrame_len {s : State} (h : s.plen.toNat ≤ 1015) :
    (be16 (byteAt (builtFrame s) 2) (byteAt (builtFrame s) 3)).toNat + 6 = (builtFrame s).length := by
  rw [builtFrame_length, builtFrame, requestFrame_len, payload_length, requestLen_toNat h]
  omega

/-- What stands in TXBUF after an ENC.REQ that fits. -/
theorem txFrame_of_exec_encReq {s t : State} (hidle : s.isIdle = true) (hsize : s.plen.toNat ≤ 1015)
    (ht : exec .encReq s = .next t) : txFrame t = builtFrame s := by
  obtain rfl := Host.Outcome.next.inj ((exec_encReq_of_isIdle hidle).symm.trans ht)
  exact txFrame_encodeRequest (by unfold Config.maxFrame; omega)

/-- Settles O15: TXBUF holds the built frame, which closes with its own checksum. -/
theorem encodedFramesVerify : Obligations.EncodedFramesVerify := by
  intro s t hidle hsize ht
  rw [txFrame_of_exec_encReq hidle hsize ht]
  refine ⟨builtFrame_len hsize, ?verifies, requestFrame_bcc ..,
    fun s' t' hidle' ht' haddr hcm hpm hplen hp => ?operands⟩
  case verifies =>
    rw [builtFrame, requestFrame, bufferVerifies_concat, beq_iff_eq]
  case operands =>
    rw [txFrame_of_exec_encReq hidle' (hplen ▸ hsize) ht']
    exact builtFrame_congr haddr hcm hpm hp

/-- Settles O16: the two sides of the size test. -/
theorem encReqRefusesExactlyTheTooLarge : Obligations.EncReqRefusesExactlyTheTooLarge := by
  intro s hidle
  refine ⟨encodeRequest s, exec_encReq_of_isIdle hidle, ?_⟩
  have herr := encodeRequest_err s
  by_cases hlarge : Config.maxFrame < 9 + s.plen.toNat
  case pos =>
    have hsize : 1016 ≤ s.plen.toNat := by unfold Config.maxFrame at hlarge; omega
    rw [if_pos hlarge] at herr
    refine ⟨iff_of_true herr hsize, fun _ => by omega, fun _ => ⟨?state, fun bs => ?payload⟩⟩
    case state => rw [encodeRequest_of_tooLarge hlarge]
    case payload =>
      rw [exec_encReq_of_isIdle (s := { s with p := bs }) hidle, encodeRequest_of_tooLarge hlarge]
      exact congrArg _ (encodeRequest_of_tooLarge (s := { s with p := bs }) hlarge)
  case neg =>
    have hsize : ¬1016 ≤ s.plen.toNat := by unfold Config.maxFrame at hlarge; omega
    rw [if_neg hlarge] at herr
    exact ⟨iff_of_false (by rw [herr]; decide) hsize,
      fun _ => ⟨herr, encodeRequest_txLen (Nat.not_lt.1 hlarge)⟩, fun h => absurd h hsize⟩

end Sys2Proof.Machine
end

section
/-! The decoder: the outcomes of DEC.RSP as a relation, and what it answers on RXBUF and on each frame row
(41_frame_codec.md R130 to R142). -/

namespace Sys2Proof.Machine

/-! ### The outcomes of the decoder (41_frame_codec.md R140) -/

/-- A buffer whose size allows reading LEN and the discriminator, with what they read (41_frame_codec.md R130, R132). -/
structure Header (r : List Byte) (len : Word16) (d : Byte) : Prop where
  min : 5 ≤ r.length
  max : r.length ≤ Config.maxFrame
  len : be16 (byteAt r 2) (byteAt r 3) = len
  disc : byteAt r 4 = d

/-- The table of R140, a constructor for each place an outcome is decided: `t` is what the decoder makes of `s` on the
buffer `r`. `decodes_iff` ties it to `decodeResponse`. -/
inductive Decodes (r : List Byte) (s : State) : State → Prop
  | tooLarge (h : Config.maxFrame < r.length) :
      Decodes r s { s with rkind := .none_, err := .frameTooLarge, errInfo := 0x00#8 }
  | tooShort (h : r.length < 5) :
      Decodes r s { s with rkind := .none_, err := .truncatedFrame, errInfo := 0x00#8 }
  | unknown {len : Word16} {d : Byte} (h : Header r len d) (hpos : d ≠ PMT) (hneg : ¬(d = EMT ∨ d = EMT_ALT)) :
      Decodes r s { s with rkind := .none_, rlen := len, rdisc := d, err := .unknownResponseType, errInfo := d }
  | truncatedPositive {len : Word16} {d : Byte} (h : Header r len d) (hpos : d = PMT)
      (hlen : len.toNat < 6 ∨ r.length < len.toNat + 4) :
      Decodes r s { s with rkind := .none_, rlen := len, rdisc := d, err := .truncatedFrame, errInfo := 0x00#8 }
  | truncatedNegative {len : Word16} {d : Byte} (h : Header r len d) (hneg : d = EMT ∨ d = EMT_ALT)
      (hlen : len.toNat < 5 ∨ r.length < len.toNat + 4) :
      Decodes r s { s with rkind := .none_, rlen := len, rdisc := d, err := .truncatedFrame, errInfo := 0x00#8 }
  | positive {len : Word16} {d : Byte} (h : Header r len d) (hpos : d = PMT)
      (hlen : ¬(len.toNat < 6 ∨ r.length < len.toNat + 4)) :
      Decodes r s { s with
        rkind := .positive, rlen := len, rdisc := d, rst0 := byteAt r 7, rst1 := byteAt r 8, rst2 := byteAt r 9
        rpoff := 10#11, rplen := BitVec.ofNat 11 (len.toNat - 6), err := .none_, errInfo := 0x00#8 }
  | negative {len : Word16} {d : Byte} (h : Header r len d) (hneg : d = EMT ∨ d = EMT_ALT)
      (hlen : ¬(len.toNat < 5 ∨ r.length < len.toNat + 4)) :
      Decodes r s { s with
        rkind := .negative, rlen := len, rdisc := d, re1 := byteAt r 6, re0 := byteAt r 7
        rpoff := 9#11, rplen := BitVec.ofNat 11 (len.toNat - 5), err := .deviceError, errInfo := 0x00#8 }

theorem truncated_iff {h : Nat} {len : Word16} {n : Nat} :
    truncated h len n = true ↔ len.toNat < h ∨ n < len.toNat + 4 := by
  simp [truncated]

/-- Past the size tests LEN and the discriminator are written, then the discriminator chooses. -/
theorem decodeResponse_of_header {r : List Byte} {s : State} {len : Word16} {d : Byte} (h : Header r len d) :
    decodeResponse r s = decodeByKind r { startDecode s with rlen := len, rdisc := d } := by
  obtain ⟨hmin, hmax, rfl, rfl⟩ := h
  rw [decodeResponse, if_neg (Nat.not_lt.2 hmax), if_neg (Nat.not_lt.2 hmin)]
  rfl

theorem decodeByKind_positive {r : List Byte} {s : State} (h : s.rdisc = PMT) :
    decodeByKind r s = decodePositive r s := if_pos h

theorem decodeByKind_negative {r : List Byte} {s : State} (h : s.rdisc = EMT ∨ s.rdisc = EMT_ALT) :
    decodeByKind r s = decodeNegative r s := by
  have hpos : s.rdisc ≠ PMT := fun hp => absurd (hp ▸ h) (by decide)
  exact (if_neg hpos).trans (if_pos h)

/-- The decoder's state is the one the table names. -/
theorem Decodes.eq {r : List Byte} {s t : State} (h : Decodes r s t) : decodeResponse r s = t := by
  cases h with
  | tooLarge h => exact if_pos h
  | tooShort h =>
    have hmax : ¬Config.maxFrame < r.length := by unfold Config.maxFrame; omega
    exact (if_neg hmax).trans (if_pos h)
  | unknown h hpos hneg =>
    rw [decodeResponse_of_header h]
    exact (if_neg hpos).trans (if_neg hneg)
  | truncatedPositive h hpos hlen =>
    rw [decodeResponse_of_header h, decodeByKind_positive hpos]
    exact if_pos (truncated_iff.2 hlen)
  | truncatedNegative h hneg hlen =>
    rw [decodeResponse_of_header h, decodeByKind_negative hneg]
    exact if_pos (truncated_iff.2 hlen)
  | positive h hpos hlen =>
    rw [decodeResponse_of_header h, decodeByKind_positive hpos]
    exact if_neg (mt truncated_iff.1 hlen)
  | negative h hneg hlen =>
    rw [decodeResponse_of_header h, decodeByKind_negative hneg]
    exact if_neg (mt truncated_iff.1 hlen)

/-- Every buffer has an outcome: the size tests, then the discriminator, then LEN. -/
theorem exists_decodes (r : List Byte) (s : State) : ∃ t, Decodes r s t := by
  by_cases hmax : Config.maxFrame < r.length
  · exact ⟨_, .tooLarge hmax⟩
  by_cases hmin : r.length < 5
  · exact ⟨_, .tooShort hmin⟩
  obtain ⟨len, d, hhead⟩ : ∃ len d, Header r len d := ⟨_, _, Nat.not_lt.1 hmin, Nat.not_lt.1 hmax, rfl, rfl⟩
  by_cases hpos : d = PMT
  · by_cases hlen : len.toNat < 6 ∨ r.length < len.toNat + 4
    · exact ⟨_, .truncatedPositive hhead hpos hlen⟩
    · exact ⟨_, .positive hhead hpos hlen⟩
  by_cases hneg : d = EMT ∨ d = EMT_ALT
  · by_cases hlen : len.toNat < 5 ∨ r.length < len.toNat + 4
    · exact ⟨_, .truncatedNegative hhead hneg hlen⟩
    · exact ⟨_, .negative hhead hneg hlen⟩
  · exact ⟨_, .unknown hhead hpos hneg⟩

theorem decodes_iff {r : List Byte} {s t : State} : Decodes r s t ↔ decodeResponse r s = t := by
  refine ⟨Decodes.eq, ?_⟩
  rintro rfl
  obtain ⟨t, ht⟩ := exists_decodes r s
  rwa [ht.eq]

/-- The outcome is read from the buffer alone, so decoding again writes the same values. -/
theorem Decodes.again {r : List Byte} {s t : State} (h : Decodes r s t) : Decodes r t t := by
  cases h with
  | tooLarge h => exact .tooLarge h
  | tooShort h => exact .tooShort h
  | unknown h hpos hneg => exact .unknown h hpos hneg
  | truncatedPositive h hpos hlen => exact .truncatedPositive h hpos hlen
  | truncatedNegative h hneg hlen => exact .truncatedNegative h hneg hlen
  | positive h hpos hlen => exact .positive h hpos hlen
  | negative h hneg hlen => exact .negative h hneg hlen

/-- The negative reply is the one outcome with a failure and a result together (41_frame_codec.md R141). -/
theorem Decodes.deviceError_iff {r : List Byte} {s t : State} (h : Decodes r s t) :
    (t.err = .deviceError ↔ t.rkind = .negative) ∧
      (t.err ≠ .none_ ∧ t.rkind ≠ .none_ ↔ t.rkind = .negative) := by
  cases h <;> simp

/-! ### DEC.RSP on RXBUF (41_frame_codec.md R131) -/

section
variable {s t : State}

theorem exec_decRsp_of_isIdle (h : s.isIdle = true) : exec .decRsp s = .next (decodeReply s) :=
  congrArg _ (whenIdle_of_isIdle h)

theorem exec_decRsp_iff (hidle : s.isIdle = true) : exec .decRsp s = .next t ↔ Decodes (rxReply s) s t := by
  rw [exec_decRsp_of_isIdle hidle, decodes_iff]
  exact ⟨Host.Outcome.next.inj, congrArg _⟩

theorem byteAt_rxReply {i : Nat} (h : i < s.rxLen.toNat) : byteAt (rxReply s) i = s.rxBuf.get .rx i :=
  Memory.byteAt_take _ _ _ _ h

theorem header_rxReply (hmin : 5 ≤ s.rxLen.toNat) (hmax : s.rxLen.toNat ≤ 1024) :
    Header (rxReply s) (be16 (s.rxBuf.get .rx 2) (s.rxBuf.get .rx 3)) (s.rxBuf.get .rx 4) where
  min := by rwa [rxReply_length]
  max := by rwa [rxReply_length]
  len := by rw [byteAt_rxReply (by omega), byteAt_rxReply (by omega)]
  disc := byteAt_rxReply (by omega)

end

/-- Settles O17: each clause is its row of the table, read from RXBUF. -/
theorem decRspOutcomes : Obligations.DecRspOutcomes := by
  intro s hidle n b len truncatedAt negative
  have hsize : (rxReply s).length = n := rxReply_length s
  have hdec {t : State} : Decodes (rxReply s) s t → exec .decRsp s = .next t := (exec_decRsp_iff hidle).2
  refine ⟨fun hmax => ?tooLarge, fun hmin => ?tooShort, fun hmin hmax hpos hneg => ?unknown,
    fun hmin hmax hpos hlen => ?truncatedPositive, fun hmin hmax hneg hlen => ?truncatedNegative,
    fun hmin hmax hpos hlen => ?positive, fun hmin hmax hneg hlen => ?negative⟩
  case tooLarge => exact hdec (.tooLarge (hsize ▸ hmax))
  case tooShort => exact hdec (.tooShort (hsize ▸ hmin))
  case unknown => exact hdec (.unknown (header_rxReply hmin hmax) hpos hneg)
  case truncatedPositive => exact hdec (.truncatedPositive (header_rxReply hmin hmax) hpos (by rwa [hsize]))
  case truncatedNegative => exact hdec (.truncatedNegative (header_rxReply hmin hmax) hneg (by rwa [hsize]))
  case positive =>
    have h := hdec (.positive (header_rxReply hmin hmax) hpos (by rwa [hsize]))
    have hwhole : 10 ≤ n := by omega
    rwa [byteAt_rxReply (by omega), byteAt_rxReply (by omega), byteAt_rxReply (by omega)] at h
  case negative =>
    have h := hdec (.negative (header_rxReply hmin hmax) hneg (by rwa [hsize]))
    have hwhole : 9 ≤ n := by omega
    rwa [byteAt_rxReply (by omega), byteAt_rxReply (by omega)] at h

/-- Settles O22: the frame's own effect is the decoder's on its bytes, which are the ones in RXBUF. -/
theorem decRspRunsTheFrameItFinds : Obligations.DecRspRunsTheFrameItFinds := fun _ _ h => exec_decRsp_of_decode h

/-- Settles O23: DEC.RSP writes nothing it reads. -/
theorem decRspIsRepeatable : Obligations.DecRspIsRepeatable := by
  intro s t hidle ht
  have hdec : Decodes (rxReply s) s t := (exec_decRsp_iff hidle).1 ht
  have hstanding : SameStanding s t := hdec.eq ▸ decodeResponse_standing (rxReply s) s
  have hreply : rxReply t = rxReply s := by rw [← hdec.eq, decodeResponse_frame]; rfl
  have hx : t.xstate = s.xstate := by rw [← hdec.eq, decodeResponse_frame]
  refine ⟨(exec_decRsp_iff (hstanding.isIdle.trans hidle)).2 ?_, hreply, hx⟩
  rw [hreply]
  exact hdec.again

/-- Settles O25, outcome by outcome. -/
theorem deviceErrorExactlyWhenNegative : Obligations.DeviceErrorExactlyWhenNegative :=
  fun _ _ hidle ht => ((exec_decRsp_iff hidle).1 ht).deviceError_iff

/-! ### The frame rows (30_encoding.md R86; log entry 4) -/

section
variable {stx a m : Byte} {len : Word16} {body : List Byte} {s t : State}

/-- A frame row answers the decoder's outcome on its own bytes. -/
theorem exec_frame_of_decodes {i : Instr} (hport : i.port = .frame) (hidle : s.isIdle = true)
    (h : Decodes (encode i) s t) : exec i s = .next t := by
  rw [exec_of_frame s hport, whenIdle_of_isIdle hidle, h.eq]

theorem header_frameBytes (hfit : 5 + body.length ≤ 1024) : Header (frameBytes stx a len m body) len m where
  min := by rw [frameBytes_length]; omega
  max := by rwa [frameBytes_length]
  len := be16_hi_lo len
  disc := rfl

/-- LEN + 4 is within the buffer exactly when LEN is at most one more than the bytes from index 5 on. -/
theorem outOfBounds_frameBytes_iff {h : Nat} :
    (len.toNat < h ∨ (frameBytes stx a len m body).length < len.toNat + 4) ↔
      len.toNat < h ∨ body.length + 1 < len.toNat := by
  rw [frameBytes_length]
  omega

theorem decodes_frameBytes_tooLarge (h : 1024 < 5 + body.length) :
    Decodes (frameBytes stx a len m body) s { s with rkind := .none_, err := .frameTooLarge, errInfo := 0x00#8 } :=
  .tooLarge (by rwa [frameBytes_length])

end

/-- Settles O18: the status bytes stand at index 7 of the frame, index 2 of its body. -/
theorem positiveReplyIsDecoded : Obligations.PositiveReplyIsDecoded := by
  intro stx a len body s hidle hfit hmin hmax
  have hlen : ¬(len.toNat < 6 ∨ body.length + 1 < len.toNat) := by omega
  exact exec_frame_of_decodes rfl hidle
    (.positive (header_frameBytes hfit) rfl (mt outOfBounds_frameBytes_iff.1 hlen))

/-- Settles O19: the code bytes stand at index 6 of the frame, index 1 of its body, with either marker. -/
theorem negativeReplyIsDeviceError : Obligations.NegativeReplyIsDeviceError := by
  intro stx a len body s hidle hfit hmin hmax
  have hlen : ¬(len.toNat < 5 ∨ body.length + 1 < len.toNat) := by omega
  have hneg {m : Byte} (hm : m = EMT ∨ m = EMT_ALT) :=
    Decodes.negative (s := s) (header_frameBytes (stx := stx) (a := a) hfit) hm
      (mt outOfBounds_frameBytes_iff.1 hlen)
  exact ⟨exec_frame_of_decodes rfl hidle (hneg (.inl rfl)), exec_frame_of_decodes rfl hidle (hneg (.inr rfl))⟩

/-- A request handed to the decoder selects no reply (41_frame_codec.md R142). -/
theorem exec_req_of_fits {a : Byte} {len : Word16} {body : List Byte} {s : State} (hidle : s.isIdle = true)
    (hfit : 5 + body.length ≤ 1024) :
    exec (.req a len body) s =
      .next { s with
        rkind := .none_, rlen := len, rdisc := 0x43#8, err := .unknownResponseType, errInfo := 0x43#8 } :=
  exec_frame_of_decodes rfl hidle (.unknown (header_frameBytes hfit) (by decide) (by decide))

/-- Settles O20: 0x43 is no reply marker; LEN of a request that fits counts its payload without wrapping. -/
theorem requestHandedToTheDecoderIsUnknown : Obligations.RequestHandedToTheDecoderIsUnknown := by
  refine ⟨fun a len body s hidle hfit => exec_req_of_fits hidle hfit, fun a c p bs s hidle hsize => ?_⟩
  exact ⟨_, exec_req_of_fits hidle (by simp; omega), rfl, rfl, rfl, requestLen_toNat hsize⟩

/-- Settles O21: LEN out of bounds in each reply row, and the size test in every frame row. -/
theorem repliesOutOfBoundsAreTruncated : Obligations.RepliesOutOfBoundsAreTruncated := by
  intro stx a len body s hidle truncatedWith
  refine ⟨fun hfit hlen => ?positive, fun hfit hlen => ?negative, fun hlarge i hi => ?tooLarge⟩
  case positive =>
    exact exec_frame_of_decodes rfl hidle
      (.truncatedPositive (header_frameBytes hfit) rfl (outOfBounds_frameBytes_iff.2 hlen))
  case negative =>
    have hneg {m : Byte} (hm : m = EMT ∨ m = EMT_ALT) :=
      Decodes.truncatedNegative (s := s) (header_frameBytes (stx := stx) (a := a) hfit) hm
        (outOfBounds_frameBytes_iff.2 hlen)
    exact ⟨exec_frame_of_decodes rfl hidle (hneg (.inl rfl)), exec_frame_of_decodes rfl hidle (hneg (.inr rfl))⟩
  case tooLarge =>
    obtain rfl | rfl | rfl | rfl := hi <;>
      exact exec_frame_of_decodes rfl hidle (decodes_frameBytes_tooLarge hlarge)

end Sys2Proof.Machine
end

section
/-! An accumulation is the storage of its logical buffer (42_exchange.md R154): what RXBUF, ACKBYTE and RXOVF hold of the
bytes a script delivers. -/

namespace Sys2Proof.Machine

/-! ### What the accumulation writes -/

/-- Storing bytes writes ACKBYTE, ACKV, RXBUF, the fill index and RXOVF only (42_exchange.md R154). -/
theorem storeChunk_frame (bs : List Byte) (s : State) :
    storeChunk bs s =
      { s with
        ackByte := (storeChunk bs s).ackByte, ackV := (storeChunk bs s).ackV, rxBuf := (storeChunk bs s).rxBuf
        rxFill := (storeChunk bs s).rxFill, rxOvf := (storeChunk bs s).rxOvf } := by
  induction bs generalizing s with
  | nil => rfl
  | cons b bs ih =>
    refine (ih (storeByte b s)).trans ?_
    rw [storeChunk_cons]
    obtain ⟨_, h⟩ | ⟨_, _, h⟩ | ⟨_, _, h⟩ := storeByte_cases b s <;> rw [h]

/-- Storage commutes with a map of states that it neither reads from nor writes to. -/
theorem storeChunk_map {g : State → State} (hg : ∀ b s, storeByte b (g s) = g (storeByte b s)) (bs : List Byte)
    (s : State) : storeChunk bs (g s) = g (storeChunk bs s) := by
  induction bs generalizing s with
  | nil => rfl
  | cons b bs ih => rw [storeChunk_cons, storeChunk_cons, hg, ih]

/-- The answered TReads of an accumulation over these answers, newest first. -/
def answered : List RAnswer → List Obs
  | [] => []
  | .data c :: as => answered as ++ [.read (.data c)]
  | .endOfStream :: _ => [.read .endOfStream]
  | .err :: _ => [.read .err]

/-- These were observed, newest first. -/
def observeAll (os : List Obs) (s : State) : State := { s with trace := os ++ s.trace }

/-- The state an accumulation over these answers leaves: the logical buffer stored, the answers behind it left. -/
def accumulated (as : List RAnswer) (s : State) : State :=
  observeAll (answered as) (leaveR (gather as).2.2 (storeChunk (gather as).2.1 s))

theorem storeByte_observeAll (os : List Obs) (b : Byte) (s : State) :
    storeByte b (observeAll os s) = observeAll os (storeByte b s) := by
  unfold storeByte
  rw [apply_ite (observeAll os), apply_ite (observeAll os)]
  rfl

/-- One chunk more in front is stored and recorded before the rest. -/
theorem accumulated_data (c : List Byte) (as : List RAnswer) (s : State) :
    accumulated (.data c :: as) s = accumulated as (storeChunk c (observe (.read (.data c)) s)) := by
  have hread (s : State) : observe (.read (.data c)) s = observeAll [.read (.data c)] s := rfl
  unfold accumulated
  rw [hread, storeChunk_map (storeByte_observeAll _), storeChunk_map (storeByte_observeAll _), ← storeChunk_append]
  simp [observeAll, leaveR, gather, answered]

/-- The sequencer's accumulation is the logical one with its bytes stored (92_eei_decisions.md D1). -/
theorem accum_eq (as : List RAnswer) (s : State) : accum as s = ((gather as).1, accumulated as s) := by
  induction as generalizing s with
  | nil => rfl
  | cons a as ih =>
    cases a with
    | data c => rw [accum_data, ih, accumulated_data]; rfl
    | endOfStream => rfl
    | err => rfl

theorem awaitAck_eq_accumulated (s : State) :
    awaitAck s = afterAccum firstByteTest ((gather s.rAns).1, accumulated s.rAns s) := by
  rw [awaitAck_eq, accum_eq]

theorem awaitReply_eq_accumulated (s : State) :
    awaitReply s = afterAccum replyComplete ((gather s.rAns).1, accumulated s.rAns s) := by
  rw [awaitReply_eq, accum_eq]

/-- An accumulation writes its storage, the answers left and the trace only. -/
theorem accumulated_frame (as : List RAnswer) (s : State) :
    accumulated as s =
      { s with
        ackByte := (accumulated as s).ackByte, ackV := (accumulated as s).ackV, rxBuf := (accumulated as s).rxBuf
        rxFill := (accumulated as s).rxFill, rxOvf := (accumulated as s).rxOvf
        rAns := (gather as).2.2, trace := answered as ++ s.trace } := by
  unfold accumulated
  rw [storeChunk_frame]
  rfl

/-! ### What RXBUF holds of the logical buffer -/

/-- RXBUF, its fill index and RXOVF after these bytes were stored behind the ACK byte: all of them if they fit, otherwise
the first 1024 and the overflow (42_exchange.md R154, R163). -/
structure Holds (bs : List Byte) (s : State) : Prop where
  fill : s.rxFill.toNat = min bs.length Config.maxFrame
  overflow : s.rxOvf = decide (Config.maxFrame < bs.length)
  bytes : s.rxBuf.take .rx s.rxFill.toNat = bs.take Config.maxFrame

/-- The fill index does not wrap while RXBUF has room: 1024 is below 2048. -/
theorem fill_add_one {v : Len11} (h : v.toNat < Config.maxFrame) : (v + 1#11).toNat = v.toNat + 1 := by
  unfold Config.maxFrame at h
  rw [BitVec.toNat_add]
  exact Nat.mod_eq_of_lt (by simp; omega)

theorem storeByte_holds {bs : List Byte} {s : State} (b : Byte) (hv : s.ackV = true) (h : Holds bs s) :
    Holds (bs ++ [b]) (storeByte b s) := by
  obtain ⟨hfill, hovf, hbytes⟩ := h
  obtain ⟨hv', _⟩ | ⟨_, hroom, he⟩ | ⟨_, hfull, he⟩ := storeByte_cases b s
  · rw [hv] at hv'
    cases hv'
  · have hlt : bs.length < Config.maxFrame := by omega
    have hnext := fill_add_one hroom
    rw [he]
    refine ⟨?fill, ?overflow, ?bytes⟩
    case fill => simp only [hnext, List.length_append, List.length_singleton]; omega
    case overflow => simp only [hovf, List.length_append, List.length_singleton]; simp; omega
    case bytes =>
      have hall : bs.take Config.maxFrame = bs := List.take_of_length_le hlt.le
      have hall' : (bs ++ [b]).take Config.maxFrame = bs ++ [b] := List.take_of_length_le (by simpa using hlt)
      simp only [hnext]
      rw [Memory.take_succ, Memory.take_put _ _ _ _ _ le_rfl, hbytes, Memory.get_put_same, hall, hall']
  · have hle : Config.maxFrame ≤ bs.length := by omega
    rw [he]
    refine ⟨?fill', ?overflow', ?bytes'⟩
    case fill' => simp only [hfill, List.length_append, List.length_singleton]; omega
    case overflow' => simp; omega
    case bytes' => exact hbytes.trans (List.take_append_of_le_length hle).symm

/-- Once a byte is in ACKBYTE it stays there until the exchange ends (10_state.md R36). -/
theorem storeByte_ackByte {s : State} (b : Byte) (hv : s.ackV = true) :
    (storeByte b s).ackV = true ∧ (storeByte b s).ackByte = s.ackByte := by
  obtain ⟨hv', _⟩ | ⟨_, _, he⟩ | ⟨_, _, he⟩ := storeByte_cases b s
  · rw [hv] at hv'
    cases hv'
  · rw [he]; exact ⟨hv, rfl⟩
  · rw [he]; exact ⟨hv, rfl⟩

theorem storeChunk_ackByte {s : State} (bs : List Byte) (hv : s.ackV = true) :
    (storeChunk bs s).ackV = true ∧ (storeChunk bs s).ackByte = s.ackByte := by
  induction bs generalizing s with
  | nil => exact ⟨hv, rfl⟩
  | cons b bs ih =>
    obtain ⟨hv', hb⟩ := storeByte_ackByte b hv
    rw [storeChunk_cons, ← hb]
    exact ih hv'

theorem storeChunk_holds {bs : List Byte} {s : State} (cs : List Byte) (hv : s.ackV = true) (h : Holds bs s) :
    Holds (bs ++ cs) (storeChunk cs s) := by
  induction cs generalizing bs s with
  | nil => simpa using h
  | cons c cs ih => simpa using ih (storeByte_ackByte c hv).1 (storeByte_holds c hv h)

section
variable {bs : List Byte} {s : State} (h : Holds bs s)
include h

theorem Holds.rxFill_eq_zero_iff : s.rxFill = 0#11 ↔ bs = [] := by
  have hfill := h.fill
  rw [← BitVec.toNat_inj, hfill, ← List.length_eq_zero_iff]
  simp [Config.maxFrame]

/-- Bytes that fit are the reply buffer once their length is stored (42_exchange.md R164). -/
theorem Holds.rxReply_storeReplyLength (hfit : bs.length ≤ Config.maxFrame) : rxReply (storeReplyLength s) = bs :=
  h.bytes.trans (List.take_of_length_le hfit)

end

/-! ### The two accumulations of an exchange -/

/-- Nothing has been stored since the start of the exchange (42_exchange.md R157). -/
structure Unfilled (s : State) : Prop where
  ackV : s.ackV = false
  rxFill : s.rxFill = 0#11
  rxOvf : s.rxOvf = false

theorem holds_nil {s : State} (hfill : s.rxFill = 0#11) (hovf : s.rxOvf = false) : Holds [] s where
  fill := by simp [hfill]
  overflow := by simp [hovf]
  bytes := by simp [hfill, Memory.take]

/-- Without a byte ACKV stays down (42_exchange.md R161). -/
theorem accumulated_empty {as : List RAnswer} {s : State} (hb : (gather as).2.1 = []) (hv : s.ackV = false) :
    (accumulated as s).ackV = false := by
  unfold accumulated
  rw [hb]
  exact hv

theorem accumulated_holds_of_storeChunk {as : List RAnswer} {bs : List Byte} {s : State}
    (h : Holds bs (storeChunk (gather as).2.1 s)) : Holds bs (accumulated as s) :=
  ⟨h.fill, h.overflow, h.bytes⟩

/-- A byte stands first in the accumulation (10_state.md R36). -/
def withFirstByte (b : Byte) (s : State) : State := { s with ackByte := b, ackV := true }

theorem storeByte_of_first (b : Byte) {s : State} (hv : s.ackV = false) : storeByte b s = withFirstByte b s := if_pos hv

/-- The first byte of an exchange goes to ACKBYTE, the others to RXBUF (42_exchange.md R154). -/
theorem accumulated_first {as : List RAnswer} {s : State} {a : Byte} {rest : List Byte} (hb : (gather as).2.1 = a :: rest)
    (hs : Unfilled s) :
    (accumulated as s).ackV = true ∧ (accumulated as s).ackByte = a ∧ Holds rest (accumulated as s) := by
  obtain ⟨hv, hfill, hovf⟩ := hs
  have hchunk : storeChunk (gather as).2.1 s = storeChunk rest (withFirstByte a s) := by
    rw [hb, storeChunk_cons, storeByte_of_first a hv]
  obtain ⟨hv', hb'⟩ := storeChunk_ackByte (s := withFirstByte a s) rest rfl
  rw [← hchunk] at hv' hb'
  refine ⟨hv', hb', accumulated_holds_of_storeChunk ?_⟩
  rw [hchunk]
  exact storeChunk_holds (s := withFirstByte a s) rest rfl (holds_nil hfill hovf)

/-- After the ACK byte every byte goes to RXBUF (42_exchange.md R162). -/
theorem accumulated_holds {as : List RAnswer} {s : State} (hv : s.ackV = true) (h : Holds [] s) :
    Holds (gather as).2.1 (accumulated as s) :=
  accumulated_holds_of_storeChunk (storeChunk_holds (gather as).2.1 hv h)

end Sys2Proof.Machine
end

section
/-! Tokens: the first-byte test on a given byte (42_exchange.md R161, R177), and that an exchange only adds to what was
observed before it. -/

namespace Sys2Proof.Machine

/-- Nothing observed is taken back (20_memory.md R70). -/
theorem keptByExchange_observedBefore (os : List Obs) : KeptByExchange fun s => os <:+ s.trace where
  enter _ _ hs := hs.trans (List.suffix_cons ..)
  observed _ _ hs := hs.trans (List.suffix_cons ..)
  raise _ _ _ hs := hs
  endOp _ hs := hs
  forget _ hs := hs
  store b s hs := by rw [storeByte_frame]; exact hs
  wTaken _ _ hs := hs
  rTaken _ _ hs := hs
  reading _ _ hs := hs
  checksum _ _ hs := hs
  working _ _ hs := hs
  noAckByte _ hs := hs
  received _ hs := hs
  decode r s hs := by rw [decodeResponse_frame]; exact hs

/-- The acknowledge is observed before anything of the reply phase (42_exchange.md R162). -/
theorem ackReceived_observed (s : State) :
    (.enter .awaitingReply :: .enter .ackReceived :: s.trace) <:+ (ackReceived s).trace := by
  have h := keptByExchange_observedBefore (.enter .awaitingReply :: .enter .ackReceived :: s.trace)
  unfold ackReceived
  dsimp only
  split
  · exact h.awaitReply _ List.suffix_rfl
  · exact h.replyComplete _ List.suffix_rfl

section
variable {s : State} (hcall : s.call = .readAck)
include hcall

theorem tokenFirst_ack : tokenFirst ACK s = ackReceived (withFirstByte ACK s) :=
  (if_pos hcall).trans (if_pos ⟨rfl, rfl⟩)

theorem tokenFirst_other {b : Byte} (hb : b ≠ ACK) : tokenFirst b s = noAck (withFirstByte b s) :=
  (if_pos hcall).trans (if_neg fun h => hb h.2)

end

/-- An ACK byte that came alone, with no answer ready, leaves the block in the second accumulation. -/
theorem ackReceived_blocked {s : State} (hfill : s.rxFill = 0#11) (hr : s.rAns = []) :
    ackReceived s = setCall .readReply (setX .awaitingReply (setX .ackReceived s)) := by
  have hwait : awaitReply (setCall .readReply (setX .awaitingReply (setX .ackReceived s))) =
      setCall .readReply (setX .awaitingReply (setX .ackReceived s)) := by
    rw [awaitReply_eq, accum_of_rAns_nil (by simpa using hr)]
    rfl
  exact (if_pos hfill).trans hwait

/-- Settles O39: the first-byte test passes on ACK, and what follows only adds to the trace. -/
theorem ackStartsTheReplyPhase : Obligations.AckStartsTheReplyPhase := by
  intro s hcall
  have hexec : exec .ack s = .next (ackReceived (withFirstByte ACK s)) :=
    congrArg Host.Outcome.next (tokenFirst_ack hcall)
  refine ⟨?trace, fun hfill hr => ?blocked⟩
  case trace =>
    obtain ⟨later, h⟩ := ackReceived_observed (withFirstByte ACK s)
    exact ⟨_, later, hexec, h.symm.trans (by simp [withFirstByte])⟩
  case blocked =>
    rw [hexec, ackReceived_blocked (s := withFirstByte ACK s) hfill hr]
    rfl

/-- The state NoAck leaves when a byte stood first (42_exchange.md R177). -/
theorem noAck_withFirstByte (b : Byte) (s : State) :
    noAck (withFirstByte b s) =
      { s with
        ackByte := b, ackV := true, noAckV := true, err := .noAck, errInfo := b, xstate := .failNoAck
        call := .none_, op := .none_, rxBuf := s.rxBuf.forget, trace := .enter .failNoAck :: s.trace } := by
  have hinfo : noAckInfo (withFirstByte b s) = b := if_pos rfl
  rw [noAck, hinfo]
  simp only [failExchange, endOp, setX, observe, raise, forgetReply, recordNoAckByte, withFirstByte]

/-- Settles O40: neither byte is ACK. -/
theorem nakAndEotAreNoAck : Obligations.NakAndEotAreNoAck := by
  intro s hcall failed
  have token {b : Byte} (hb : b ≠ ACK) : tokenFirst b s = failed b :=
    (tokenFirst_other hcall hb).trans (noAck_withFirstByte b s)
  exact ⟨congrArg Host.Outcome.next (token (b := NAK) (by decide)),
    congrArg Host.Outcome.next (token (b := EOT) (by decide))⟩

/-- Settles O41: a token is read in the first accumulation only. -/
theorem tokensElsewhereChangeNothing : Obligations.TokensElsewhereChangeNothing := fun _ hcall =>
  have hsame (b : Byte) : Host.Outcome.next (tokenFirst b _) = .next _ := congrArg Host.Outcome.next (if_neg hcall)
  ⟨hsame ACK, hsame NAK, hsame EOT⟩

end Sys2Proof.Machine
end

section
/-! Two runs of an exchange: what the sequencer tests, and the induction over its transitions for a relation between two
blocks that it cannot tell apart (42_exchange.md R152, R162, R178). -/

namespace Sys2Proof.Machine

/-- Everything a transition tests, apart from the answers to TRead, is the same in both blocks. -/
structure SameTests (s s' : State) : Prop where
  wAns : s'.wAns = s.wAns
  txLen : s'.txLen = s.txLen
  ackV : s'.ackV = s.ackV
  ackByte : s'.ackByte = s.ackByte
  rxFill : s'.rxFill = s.rxFill
  rxOvf : s'.rxOvf = s.rxOvf
  strict : s'.strict = s.strict
  reply : rxReply s' = rxReply s

/-- A relation between two blocks that the sequencer cannot tell apart and that its updates keep. -/
structure KeptInBoth (Rel : State → State → Prop) : Prop where
  tests : ∀ {s s'}, Rel s s' → SameTests s s'
  enter : ∀ x {s s'}, Rel s s' → Rel (setX x s) (setX x s')
  fails : ∀ f i x {s s'}, Rel s s' → Rel (failExchange f i x s) (failExchange f i x s')
  forget : ∀ {s s'}, Rel s s' → Rel (forgetReply s) (forgetReply s')
  wTaken : ∀ w {s s'}, Rel s s' → Rel (leaveW w s) (leaveW w s')
  reading : ∀ c {s s'}, Rel s s' → Rel (setCall c s) (setCall c s')
  writes : ∀ b c {s s'}, Rel s s' → Rel (callWrite b c s) (callWrite b c s')
  checksum : ∀ ok {s s'}, Rel s s' → Rel (recordChecksum ok s) (recordChecksum ok s')
  working : ∀ b {s s'}, Rel s s' → Rel (setBccAcc b s) (setBccAcc b s')
  noAckByte : ∀ {s s'}, Rel s s' → Rel (recordNoAckByte s) (recordNoAckByte s')
  received : ∀ {s s'}, Rel s s' → Rel (storeReplyLength s) (storeReplyLength s')
  accumulated : ∀ {s s'}, Rel s s' → (gather s'.rAns).1 = (gather s.rAns).1 ∧
    Rel (accumulated s.rAns s) (accumulated s'.rAns s')
  handOver : ∀ {s s'}, Rel s s' → Rel (handOver s) (handOver s')

namespace KeptInBoth

variable {Rel : State → State → Prop} {s s' : State}

theorem afterWrite (h : KeptInBoth Rel) {k : State → State} (n : Nat) (hs : Rel s s')
    (hk : ∀ as, Rel (k (leaveW as s)) (k (leaveW as s'))) : Rel (afterWrite n k s) (afterWrite n k s') := by
  have hw := (h.tests hs).wAns
  cases ha : s.wAns with
  | nil => rwa [afterWrite_nil ha, afterWrite_nil (hw.trans ha)]
  | cons a as =>
    rw [afterWrite_cons ha, afterWrite_cons (hw.trans ha)]
    split
    · exact hk as
    · exact h.fails _ _ _ (h.wTaken as hs)

theorem afterAccum (h : KeptInBoth Rel) {k : State → State} (hs : Rel s s')
    (hk : ∀ {t t'}, Rel t t' → Rel (k t) (k t')) :
    Rel (afterAccum k ((gather s.rAns).1, Machine.accumulated s.rAns s))
      (Machine.afterAccum k ((gather s'.rAns).1, Machine.accumulated s'.rAns s')) := by
  obtain ⟨he, ht⟩ := h.accumulated hs
  rw [he]
  cases (gather s.rAns).1 with
  | blocked => exact ht
  | endOfStream => exact hk ht
  | err => exact h.fails _ _ _ (h.forget ht)

theorem awaitAckWrite (h : KeptInBoth Rel) (hs : Rel s s') : Rel (awaitAckWrite s) (awaitAckWrite s') := by
  rw [awaitAckWrite_eq, awaitAckWrite_eq]
  exact h.afterWrite 1 hs fun as => h.handOver (h.enter .done (h.wTaken as hs))

theorem acknowledge (h : KeptInBoth Rel) (hs : Rel s s') : Rel (acknowledge s) (acknowledge s') :=
  h.awaitAckWrite (h.writes _ _ (h.enter _ hs))

theorem checkReply (h : KeptInBoth Rel) (hs : Rel s s') : Rel (checkReply s) (checkReply s') := by
  unfold Machine.checkReply
  dsimp only
  rw [(h.tests hs).reply, (h.tests hs).strict]
  have hchecked := h.checksum (bufferVerifies (rxReply s)) (h.working (bcc (bodyBytes (rxReply s))) hs)
  split
  · exact h.fails _ _ _ hchecked
  · exact h.acknowledge hchecked

theorem replyComplete (h : KeptInBoth Rel) (hs : Rel s s') : Rel (replyComplete s) (replyComplete s') := by
  unfold Machine.replyComplete
  rw [(h.tests hs).rxOvf, (h.tests hs).rxFill]
  split
  · exact h.fails _ _ _ (h.forget hs)
  · split
    · exact h.fails _ _ _ (h.received hs)
    · exact h.checkReply (h.received hs)

theorem awaitReply (h : KeptInBoth Rel) (hs : Rel s s') : Rel (awaitReply s) (awaitReply s') := by
  rw [awaitReply_eq_accumulated, awaitReply_eq_accumulated]
  exact h.afterAccum hs h.replyComplete

theorem ackReceived (h : KeptInBoth Rel) (hs : Rel s s') : Rel (ackReceived s) (ackReceived s') := by
  unfold Machine.ackReceived
  dsimp only
  rw [(h.tests hs).rxFill]
  have hentered := h.enter .awaitingReply (h.enter .ackReceived hs)
  split
  · exact h.awaitReply (h.reading _ hentered)
  · exact h.replyComplete hentered

theorem noAck (h : KeptInBoth Rel) (hs : Rel s s') : Rel (noAck s) (noAck s') := by
  unfold Machine.noAck noAckInfo
  rw [(h.tests hs).ackV, (h.tests hs).ackByte]
  exact h.fails _ _ _ (h.forget (h.noAckByte hs))

theorem firstByteTest (h : KeptInBoth Rel) (hs : Rel s s') : Rel (firstByteTest s) (firstByteTest s') := by
  unfold Machine.firstByteTest
  rw [(h.tests hs).ackV, (h.tests hs).ackByte]
  split
  · exact h.ackReceived hs
  · exact h.noAck hs

theorem awaitAck (h : KeptInBoth Rel) (hs : Rel s s') : Rel (awaitAck s) (awaitAck s') := by
  rw [awaitAck_eq_accumulated, awaitAck_eq_accumulated]
  exact h.afterAccum hs h.firstByteTest

/-- The whole exchange, from the TWrite of the request on. -/
theorem awaitRequestWrite (h : KeptInBoth Rel) (hs : Rel s s') :
    Rel (awaitRequestWrite s) (awaitRequestWrite s') := by
  rw [awaitRequestWrite_eq, awaitRequestWrite_eq, (h.tests hs).txLen]
  exact h.afterWrite _ hs fun as => h.awaitAck (h.reading _ (h.enter _ (h.enter _ (h.wTaken as hs))))

end KeptInBoth

/-! ### The operand registers, and what the rules of XCHG do not name -/

/-- Other values in the operand registers (10_state.md R20). -/
def withOperands (a c p : Byte) (n : Word16) (bs : List Byte) (s : State) : State :=
  { s with raddr := a, rcm := c, rpm := p, plen := n, p := bs }

/-- A state with everything the rules of XCHG name taken out (42_exchange.md R157, R170): two states that agree here
differ in nothing else. -/
def outsideXchg (s : State) : State :=
  { s with
    xstate := .idle, rxBuf := State.reset.rxBuf, rxLen := 0#11, rkind := .none_, err := .none_, errInfo := 0x00#8
    bccErr := false, noAckV := false, bccAcc := 0x00#8, ackByte := 0x00#8, ackV := false, rxOvf := false
    strict := false, rxFill := 0#11, call := .none_, op := .none_, wAns := [], rAns := [], trace := [] }

/-- What XCHG names, put back: only these fields differ between states that agree outside it. -/
theorem eq_of_outsideXchg {s t : State} (h : outsideXchg t = outsideXchg s) :
    t = { s with
      xstate := t.xstate, rxBuf := t.rxBuf, rxLen := t.rxLen, rkind := t.rkind, err := t.err, errInfo := t.errInfo
      bccErr := t.bccErr, noAckV := t.noAckV, bccAcc := t.bccAcc, ackByte := t.ackByte, ackV := t.ackV
      rxOvf := t.rxOvf, strict := t.strict, rxFill := t.rxFill, call := t.call, op := t.op
      wAns := t.wAns, rAns := t.rAns, trace := t.trace } :=
  congrArg (fun u : State => { u with
    xstate := t.xstate, rxBuf := t.rxBuf, rxLen := t.rxLen, rkind := t.rkind, err := t.err, errInfo := t.errInfo
    bccErr := t.bccErr, noAckV := t.noAckV, bccAcc := t.bccAcc, ackByte := t.ackByte, ackV := t.ackV
    rxOvf := t.rxOvf, strict := t.strict, rxFill := t.rxFill, call := t.call, op := t.op
    wAns := t.wAns, rAns := t.rAns, trace := t.trace }) h

/-- An XCHG started in `s₀` has come to `s`: it has written nothing outside its rules, and the decoder has not run
(42_exchange.md R173). -/
structure XchgFrom (s₀ s : State) : Prop where
  outside : outsideXchg s = outsideXchg s₀
  op : s.op ≠ .transact
  rkind : s.rkind = .none_

theorem handOver_of_xchg {s : State} (h : s.op ≠ .transact) : handOver s = endOp s := if_neg h

theorem accumulated_xchgFrom {s₀ s : State} (as : List RAnswer) (h : XchgFrom s₀ s) : XchgFrom s₀ (accumulated as s) := by
  rw [accumulated_frame]
  exact ⟨h.outside, h.op, h.rkind⟩

theorem storeByte_withOperands (a c p : Byte) (n : Word16) (bs : List Byte) (b : Byte) (s : State) :
    storeByte b (withOperands a c p n bs s) = withOperands a c p n bs (storeByte b s) := by
  unfold storeByte
  rw [apply_ite (withOperands a c p n bs), apply_ite (withOperands a c p n bs)]
  rfl

theorem accumulated_withOperands (a c p : Byte) (n : Word16) (bs : List Byte) (as : List RAnswer) (s : State) :
    accumulated as (withOperands a c p n bs s) = withOperands a c p n bs (accumulated as s) := by
  unfold accumulated
  rw [storeChunk_map (storeByte_withOperands a c p n bs)]
  rfl

/-- An XCHG runs on the same with other operands, and writes only what its rules name. -/
theorem keptInBoth_withOperands (s₀ : State) (a c p : Byte) (n : Word16) (bs : List Byte) :
    KeptInBoth fun s s' => s' = withOperands a c p n bs s ∧ XchgFrom s₀ s where
  tests := by rintro s _ ⟨rfl, -⟩; exact ⟨rfl, rfl, rfl, rfl, rfl, rfl, rfl, rfl⟩
  enter := by rintro x s _ ⟨rfl, h⟩; exact ⟨rfl, h.outside, h.op, h.rkind⟩
  fails := by rintro f i x s _ ⟨rfl, h⟩; exact ⟨rfl, h.outside, nofun, h.rkind⟩
  forget := by rintro s _ ⟨rfl, h⟩; exact ⟨rfl, h.outside, h.op, h.rkind⟩
  wTaken := by rintro w s _ ⟨rfl, h⟩; exact ⟨rfl, h.outside, h.op, h.rkind⟩
  reading := by rintro c s _ ⟨rfl, h⟩; exact ⟨rfl, h.outside, h.op, h.rkind⟩
  writes := by rintro b c s _ ⟨rfl, h⟩; exact ⟨rfl, h.outside, h.op, h.rkind⟩
  checksum := by rintro ok s _ ⟨rfl, h⟩; exact ⟨rfl, h.outside, h.op, h.rkind⟩
  working := by rintro b s _ ⟨rfl, h⟩; exact ⟨rfl, h.outside, h.op, h.rkind⟩
  noAckByte := by rintro s _ ⟨rfl, h⟩; exact ⟨rfl, h.outside, h.op, h.rkind⟩
  received := by rintro s _ ⟨rfl, h⟩; exact ⟨rfl, h.outside, h.op, h.rkind⟩
  accumulated := by
    rintro s _ ⟨rfl, h⟩
    exact ⟨rfl, accumulated_withOperands a c p n bs s.rAns s, accumulated_xchgFrom s.rAns h⟩
  handOver := by
    rintro s _ ⟨rfl, h⟩
    rw [handOver_of_xchg h.op, handOver_of_xchg (s := withOperands a c p n bs s) h.op]
    exact ⟨rfl, h.outside, nofun, h.rkind⟩

/-- The block as it hands its request to TWrite (42_exchange.md R157, R158). -/
def requestOut (o : Op) (s : State) : State := callWrite (txFrame s) .writeRequest (clearExchange o s)

theorem requestOut_xchgFrom (s : State) : XchgFrom s (requestOut .xchg s) where
  outside := by simp [outsideXchg, requestOut]
  op := nofun
  rkind := by simp [requestOut]

theorem requestOut_withOperands (a c p : Byte) (n : Word16) (bs : List Byte) (o : Op) (s : State) :
    requestOut o (withOperands a c p n bs s) = withOperands a c p n bs (requestOut o s) := rfl

theorem startExchange_withOperands (a c p : Byte) (n : Word16) (bs : List Byte) (s : State) :
    startExchange .xchg (withOperands a c p n bs s) = withOperands a c p n bs (startExchange .xchg s) ∧
      XchgFrom s (startExchange .xchg s) :=
  (keptInBoth_withOperands s a c p n bs).awaitRequestWrite
    ⟨requestOut_withOperands a c p n bs .xchg s, requestOut_xchgFrom s⟩

theorem startExchange_xchgFrom (s : State) : XchgFrom s (startExchange .xchg s) :=
  (startExchange_withOperands s.raddr s.rcm s.rpm s.plen s.p s).2

/-- XCHG is refused and changes nothing, or runs (42_exchange.md R156). -/
theorem exec_xchg_cases {s t : State} (h : exec .xchg s = .next t) :
    ((s.isIdle = false ∨ s.txLen = 0#11) ∧ t = s) ∨
      (s.isIdle = true ∧ s.txLen ≠ 0#11 ∧ t = startExchange .xchg s) := by
  obtain rfl : whenIdle exchange s = t := Host.Outcome.next.inj h
  cases hi : s.isIdle with
  | false => exact .inl ⟨.inl rfl, whenIdle_of_busy hi⟩
  | true =>
    rw [whenIdle_of_isIdle hi]
    by_cases hl : s.txLen = 0#11
    · exact .inl ⟨.inr hl, exchange_of_no_frame hl⟩
    · exact .inr ⟨rfl, hl, if_neg hl⟩

theorem exec_xchg_of_frame {s : State} (hi : s.isIdle = true) (hl : s.txLen ≠ 0#11) :
    exec .xchg s = .next (startExchange .xchg s) :=
  congrArg Host.Outcome.next ((whenIdle_of_isIdle hi).trans (if_neg hl))

/-- Settles O28: an XCHG that runs agrees with its start outside the registers its rules name. -/
theorem xchgLeavesTheRestUnchanged : Obligations.XchgLeavesTheRestUnchanged := by
  intro s t ht
  obtain ⟨-, rfl⟩ | ⟨-, -, rfl⟩ := exec_xchg_cases ht
  · rfl
  · exact eq_of_outsideXchg (startExchange_xchgFrom s).outside

/-- Settles O38: the relation of a block to itself with other operands goes through XCHG. -/
theorem sequencerIgnoresTheOperands : Obligations.SequencerIgnoresTheOperands := by
  intro s t a c p n bs ht
  change exec .xchg (withOperands a c p n bs s) = .next (withOperands a c p n bs t)
  obtain ⟨hi | hl, rfl⟩ | ⟨hi, hl, rfl⟩ := exec_xchg_cases ht
  · exact exec_of_busy (s := withOperands a c p n bs t) nofun hi
  · exact exec_xchg_of_no_frame (s := withOperands a c p n bs t) hl
  · rw [exec_xchg_of_frame (s := withOperands a c p n bs s) hi hl, (startExchange_withOperands a c p n bs s).1]

end Sys2Proof.Machine
end

section
/-! Chunk boundaries have no effect (42_exchange.md R152, R154, R162). -/

namespace Sys2Proof.Machine

/-! ### The bytes and endings of a script -/

theorem bytewise_data (c : List Byte) (as : List RAnswer) :
    bytewise (.data c :: as) = c.map (fun b => .data [b]) ++ bytewise as := rfl

/-- Bytes that come one a chunk are gathered as they are. -/
theorem gather_singles (c : List Byte) (as : List RAnswer) :
    gather (c.map (fun b => .data [b]) ++ as) = ((gather as).1, c ++ (gather as).2.1, (gather as).2.2) := by
  induction c with
  | nil => rfl
  | cons b c ih => simp [gather, ih]

/-- The logical buffer does not show where its chunks ended. -/
theorem gather_bytewise (as : List RAnswer) :
    gather (bytewise as) = ((gather as).1, (gather as).2.1, bytewise (gather as).2.2) := by
  induction as with
  | nil => rfl
  | cons a as ih =>
    cases a with
    | data c => rw [bytewise_data, gather_singles, ih]; rfl
    | endOfStream => rfl
    | err => rfl

theorem withoutReads_answered (as : List RAnswer) (tr : List Obs) :
    withoutReads (answered as ++ tr) = withoutReads tr := by
  induction as generalizing tr with
  | nil => rfl
  | cons a as ih =>
    cases a with
    | data c => rw [answered, List.append_assoc, ih]; rfl
    | endOfStream => rfl
    | err => rfl

/-! ### States up to the chunks -/

/-- A state without its recorded reads and with its answers to TRead one byte a chunk. -/
def upToChunks (s : State) : State := { s with trace := withoutReads s.trace, rAns := bytewise s.rAns }

/-- What reads neither the trace nor the answers to TRead is the same in blocks that agree up to the chunks. -/
theorem eq_of_upToChunks {α : Type} (f : State → α) (hf : ∀ s, f (upToChunks s) = f s) {s s' : State}
    (h : upToChunks s = upToChunks s') : f s' = f s :=
  calc f s' = f (upToChunks s') := (hf s').symm
    _ = f (upToChunks s) := congrArg f h.symm
    _ = f s := hf s

theorem storeByte_upToChunks (b : Byte) (s : State) : storeByte b (upToChunks s) = upToChunks (storeByte b s) := by
  unfold storeByte
  rw [apply_ite upToChunks, apply_ite upToChunks]
  rfl

/-- What an accumulation leaves up to the chunks depends on its script up to the chunks. -/
theorem upToChunks_accumulated (s : State) :
    upToChunks (accumulated s.rAns s) =
      leaveR (gather (bytewise s.rAns)).2.2 (storeChunk (gather (bytewise s.rAns)).2.1 (upToChunks s)) := by
  have hread (t : State) : upToChunks (observeAll (answered s.rAns) t) = upToChunks t := by
    simp only [upToChunks, observeAll, withoutReads_answered]
  rw [accumulated, hread, gather_bytewise, storeChunk_map storeByte_upToChunks]
  rfl

/-- The decoder reads neither the trace nor the transport's answers. -/
theorem Decodes.upToChunks {r : List Byte} {s t : State} (h : Decodes r s t) :
    Decodes r (upToChunks s) (upToChunks t) := by
  cases h with
  | tooLarge h => exact .tooLarge h
  | tooShort h => exact .tooShort h
  | unknown h hpos hneg => exact .unknown h hpos hneg
  | truncatedPositive h hpos hlen => exact .truncatedPositive h hpos hlen
  | truncatedNegative h hneg hlen => exact .truncatedNegative h hneg hlen
  | positive h hpos hlen => exact .positive h hpos hlen
  | negative h hneg hlen => exact .negative h hneg hlen

theorem handOver_upToChunks (s : State) : handOver (upToChunks s) = upToChunks (handOver s) := by
  have hdec : decodeReply (upToChunks s) = upToChunks (decodeReply s) :=
    (decodes_iff.2 (rfl : decodeResponse (rxReply s) s = decodeReply s)).upToChunks.eq
  unfold handOver
  rw [hdec, apply_ite upToChunks]
  rfl

theorem encodeRequest_upToChunks (s : State) : encodeRequest (upToChunks s) = upToChunks (encodeRequest s) := by
  unfold encodeRequest
  rw [apply_ite upToChunks]
  rfl

/-- The sequencer cannot tell apart two blocks that agree up to the chunks. -/
theorem keptInBoth_upToChunks : KeptInBoth fun s s' => upToChunks s = upToChunks s' where
  tests h :=
    ⟨eq_of_upToChunks State.wAns (fun _ => rfl) h, eq_of_upToChunks State.txLen (fun _ => rfl) h,
      eq_of_upToChunks State.ackV (fun _ => rfl) h, eq_of_upToChunks State.ackByte (fun _ => rfl) h,
      eq_of_upToChunks State.rxFill (fun _ => rfl) h, eq_of_upToChunks State.rxOvf (fun _ => rfl) h,
      eq_of_upToChunks State.strict (fun _ => rfl) h, eq_of_upToChunks rxReply (fun _ => rfl) h⟩
  enter x _ _ h := congrArg (setX x) h
  fails f i x _ _ h := congrArg (failExchange f i x) h
  forget h := congrArg forgetReply h
  wTaken w _ _ h := congrArg (leaveW w) h
  reading c _ _ h := congrArg (setCall c) h
  writes b c _ _ h := congrArg (callWrite b c) h
  checksum ok _ _ h := congrArg (recordChecksum ok) h
  working b _ _ h := congrArg (setBccAcc b) h
  noAckByte h := congrArg recordNoAckByte h
  received h := congrArg storeReplyLength h
  accumulated {s s'} h := by
    have hr : bytewise s.rAns = bytewise s'.rAns := congrArg State.rAns h
    have hend (as : List RAnswer) : (gather as).1 = (gather (bytewise as)).1 := by rw [gather_bytewise]
    exact ⟨by rw [hend, hend s.rAns, hr], by rw [upToChunks_accumulated, upToChunks_accumulated, hr, h]⟩
  handOver h := by rw [← handOver_upToChunks, ← handOver_upToChunks, h]

theorem startExchange_upToChunks (o : Op) {s s' : State} (h : upToChunks s = upToChunks s') :
    upToChunks (startExchange o s) = upToChunks (startExchange o s') := by
  have htx : txFrame s' = txFrame s := eq_of_upToChunks txFrame (fun _ => rfl) h
  have hstart : upToChunks (requestOut o s) = upToChunks (requestOut o s') := by
    unfold requestOut
    rw [htx]
    exact congrArg (fun t => callWrite (txFrame s) .writeRequest (clearExchange o t)) h
  exact keptInBoth_upToChunks.awaitRequestWrite hstart

theorem exchange_upToChunks {s s' : State} (h : upToChunks s = upToChunks s') :
    upToChunks (exchange s) = upToChunks (exchange s') := by
  have hl : s'.txLen = s.txLen := eq_of_upToChunks State.txLen (fun _ => rfl) h
  unfold exchange
  rw [hl]
  split
  · exact h
  · exact startExchange_upToChunks .xchg h

theorem transaction_upToChunks {s s' : State} (h : upToChunks s = upToChunks s') :
    upToChunks (transaction s) = upToChunks (transaction s') := by
  have henc : upToChunks (encodeRequest s) = upToChunks (encodeRequest s') := by
    rw [← encodeRequest_upToChunks, ← encodeRequest_upToChunks, h]
  have herr : (encodeRequest s').err = (encodeRequest s).err := eq_of_upToChunks State.err (fun _ => rfl) henc
  unfold transaction
  dsimp only
  rw [herr]
  split
  · exact startExchange_upToChunks .transact henc
  · exact henc

theorem whenIdle_upToChunks {f : State → State}
    (hf : ∀ {s s'}, upToChunks s = upToChunks s' → upToChunks (f s) = upToChunks (f s')) {s s' : State}
    (h : upToChunks s = upToChunks s') : upToChunks (whenIdle f s) = upToChunks (whenIdle f s') := by
  have hi : s'.isIdle = s.isIdle := eq_of_upToChunks State.isIdle (fun _ => rfl) h
  unfold whenIdle
  rw [hi]
  split
  · exact hf h
  · exact h

/-- Settles O35: agreement up to the chunks goes through both operations. -/
theorem chunkBoundariesDoNotMatter : Obligations.ChunkBoundariesDoNotMatter := by
  intro s t t' r r' i hi hr ht ht'
  have hstart : upToChunks (leaveR r s) = upToChunks (leaveR r' s) := congrArg (leaveR · (upToChunks s)) hr
  obtain rfl | rfl := hi
  · obtain rfl := Host.Outcome.next.inj ht
    obtain rfl := Host.Outcome.next.inj ht'
    exact whenIdle_upToChunks exchange_upToChunks hstart
  · obtain rfl := Host.Outcome.next.inj ht
    obtain rfl := Host.Outcome.next.inj ht'
    exact whenIdle_upToChunks transaction_upToChunks hstart

end Sys2Proof.Machine
end

section
/-! An operation whose transport answers ends (42_exchange.md R155, 70_reset_and_hazards.md R244). -/

namespace Sys2Proof.Machine

open Sys2Proof.Safety

/-! ### Each transition with the answers it needs -/

/-- An accumulation over a script with an ending ends, and takes one ending. -/
theorem gather_of_endings {as : List RAnswer} (h : 0 < endings as) :
    (gather as).1 ≠ .blocked ∧ endings as = endings (gather as).2.2 + 1 := by
  induction as with
  | nil => exact absurd h (Nat.lt_irrefl 0)
  | cons a as ih =>
    cases a with
    | data c => exact ih h
    | endOfStream => exact ⟨nofun, rfl⟩
    | err => exact ⟨nofun, rfl⟩

section
variable {s : State}

theorem afterWrite_ends {n : Nat} {k : State → State} (hw : 0 < s.wAns.length)
    (hk : ∀ a as, s.wAns = a :: as → (k (leaveW as s)).call = .none_) : (afterWrite n k s).call = .none_ := by
  obtain ⟨a, as, ha⟩ := List.exists_cons_of_length_pos hw
  rw [afterWrite_cons ha]
  split
  · exact hk a as ha
  · rfl

theorem afterAccum_ends {k : State → State} (hr : 0 < endings s.rAns)
    (hk : (k (accumulated s.rAns s)).call = .none_) :
    (afterAccum k ((gather s.rAns).1, accumulated s.rAns s)).call = .none_ := by
  have hend := (gather_of_endings hr).1
  cases he : (gather s.rAns).1 with
  | blocked => exact absurd he hend
  | endOfStream => exact hk
  | err => rfl

theorem awaitAckWrite_ends (hw : 0 < s.wAns.length) : (awaitAckWrite s).call = .none_ := by
  rw [awaitAckWrite_eq]
  exact afterWrite_ends hw fun _ _ _ => handOver_call _

theorem acknowledge_ends (hw : 0 < s.wAns.length) : (acknowledge s).call = .none_ :=
  awaitAckWrite_ends (by simpa using hw)

theorem checkReply_ends (hw : 0 < s.wAns.length) : (checkReply s).call = .none_ := by
  unfold checkReply
  dsimp only
  split
  · rfl
  · exact acknowledge_ends (by simpa using hw)

theorem replyComplete_ends (hw : 0 < s.wAns.length) : (replyComplete s).call = .none_ := by
  unfold replyComplete
  split
  · rfl
  · split
    · rfl
    · exact checkReply_ends (by simpa using hw)

theorem awaitReply_ends (hw : 0 < s.wAns.length) (hr : 0 < endings s.rAns) : (awaitReply s).call = .none_ := by
  rw [awaitReply_eq_accumulated]
  exact afterAccum_ends hr (replyComplete_ends (by rw [accumulated_frame]; exact hw))

theorem firstByteTest_ends (hw : 0 < s.wAns.length) (hr : 0 < endings s.rAns) : (firstByteTest s).call = .none_ := by
  unfold firstByteTest ackReceived
  dsimp only
  split
  · split
    · exact awaitReply_ends hw hr
    · exact replyComplete_ends hw
  · rfl

theorem awaitAck_ends (hw : 0 < s.wAns.length) (hr : 2 ≤ endings s.rAns) : (awaitAck s).call = .none_ := by
  have hleft := (gather_of_endings (by omega : 0 < endings s.rAns)).2
  rw [awaitAck_eq_accumulated]
  refine afterAccum_ends (by omega) (firstByteTest_ends ?_ ?_) <;> rw [accumulated_frame]
  · exact hw
  · change 0 < endings (gather s.rAns).2.2
    omega

theorem awaitRequestWrite_ends (h : TransportAnswers s) : (awaitRequestWrite s).call = .none_ := by
  obtain ⟨hw, hr⟩ := h
  rw [awaitRequestWrite_eq]
  refine afterWrite_ends (by omega) fun a as ha => awaitAck_ends ?_ hr
  rw [ha] at hw
  exact Nat.lt_of_succ_lt_succ hw

/-- An exchange ends in a rest state: the sequencer hangs together from the start actions on (10_state.md R24). -/
theorem startExchange_isIdle {o : Op} (ho : o ≠ .none_) (hi : s.isIdle = true) (h : TransportAnswers s) :
    (startExchange o s).isIdle = true := by
  have hcall : (startExchange o s).call = .none_ :=
    awaitRequestWrite_ends (s := requestOut o s) h
  have hstart : SequencerCoherent (requestOut o s) :=
    (coherent_writeRequest rfl).2 ⟨xstate_isRest_of_isIdle (s := s) hi, ho, rfl, rfl, rfl, rfl, rfl, rfl⟩
  have hcoherent : SequencerCoherent (startExchange o s) := keptBySequencer_coherent.awaitRequestWrite rfl hstart
  have hrest := ((coherent_none hcall).1 hcoherent).1
  simp [State.isIdle, hcall, hrest]

end

/-- Settles O37: refused, stopped by the encoder, or run to the end of its exchange. -/
theorem operationsEndWhenTheTransportAnswers : Obligations.OperationsEndWhenTheTransportAnswers := by
  intro s i hi hidle h
  obtain rfl | rfl := hi
  · refine ⟨exchange s, congrArg Host.Outcome.next (whenIdle_of_isIdle hidle), ?_⟩
    unfold exchange
    split
    · exact hidle
    · exact startExchange_isIdle nofun hidle h
  · refine ⟨transaction s, congrArg Host.Outcome.next (whenIdle_of_isIdle hidle), ?_⟩
    have hidle' : (encodeRequest s).isIdle = true := (encodeRequest_standing s).isIdle.trans hidle
    unfold transaction
    dsimp only
    split
    · exact startExchange_isIdle nofun hidle' (by rw [encodeRequest_frame]; exact h)
    · exact hidle'

end Sys2Proof.Machine
end

section
/-! The exchange computed over the logical accumulations, case by case (42_exchange.md R158 to R171). -/

namespace Sys2Proof.Machine

/-! ### The writes of a trace -/

theorem writesOf_write (b : List Byte) (tr : List Obs) : writesOf (.write b :: tr) = writesOf tr ++ [b] := by
  simp [writesOf]

theorem writesOf_append (os tr : List Obs) : writesOf (os ++ tr) = writesOf tr ++ writesOf os := by
  simp [writesOf]

/-- Reading writes nothing. -/
theorem writesOf_answered (as : List RAnswer) : writesOf (answered as) = [] := by
  induction as with
  | nil => rfl
  | cons a as ih =>
    cases a with
    | data c => rw [answered, writesOf_append, ih]; rfl
    | endOfStream => rfl
    | err => rfl

/-! ### The logical exchange -/

section
variable {tx reply rest : List Byte} {strict bad : Bool} {x : XState} {a : WAnswer} {w : List WAnswer}
  {r r' : List RAnswer}

theorem accepts_iff {n : Nat} : a.accepts n = true ↔ a = .ok n := by simp [WAnswer.accepts]

theorem logicalAckWrite_ok :
    logicalAckWrite tx reply bad (.ok 1 :: w) r = failView .none_ .done reply bad [tx, [ACK]] w r := rfl

theorem logicalAckWrite_failed (h : a ≠ .ok 1) :
    logicalAckWrite tx reply bad (a :: w) r = failView .transportError .failTransport reply bad [tx, [ACK]] w r := by
  unfold logicalAckWrite
  split
  · rename_i hw
    cases hw
  · rename_i hw
    cases hw
    exact absurd rfl h
  · rename_i hw
    cases hw
    rfl

theorem logicalReply_tooLarge (h : Config.maxFrame < reply.length) :
    logicalReply tx strict reply w r = failView .frameTooLarge .failDecode [] false [tx] w r := if_pos h

theorem logicalReply_empty : logicalReply tx strict [] w r = failView .truncatedFrame .failDecode [] false [tx] w r :=
  rfl

/-- A reply that fits is judged by its checksum (42_exchange.md R165). -/
theorem logicalReply_checked (hne : reply ≠ []) (hfit : reply.length ≤ Config.maxFrame) :
    logicalReply tx strict reply w r =
      if bufferVerifies reply = false ∧ strict = true then
        failView .checksumMismatch .failDecode reply true [tx] w r
      else logicalAckWrite tx reply (!bufferVerifies reply) w r := by
  rw [logicalReply, if_neg (Nat.not_lt.2 hfit), if_neg hne]
  cases bufferVerifies reply <;> cases strict <;> rfl

/-- A reply that verifies, or that lenient mode lets pass, is acknowledged (42_exchange.md R167). -/
theorem logicalReply_passes (hne : reply ≠ []) (hfit : reply.length ≤ Config.maxFrame)
    (hok : bufferVerifies reply = true ∨ strict = false) :
    logicalReply tx strict reply w r = logicalAckWrite tx reply (!bufferVerifies reply) w r := by
  rw [logicalReply_checked hne hfit, if_neg]
  rintro ⟨hbad, hstrict⟩
  simp [hbad, hstrict] at hok

/-- The second accumulation and what follows it (42_exchange.md R162). -/
def logicalSecond (tx : List Byte) (strict : Bool) (w : List WAnswer) (r : List RAnswer) : ExchangeView :=
  match gather r with
  | (.blocked, _, _) => blockedView .awaitingReply .readReply [] false [tx] w
  | (.err, _, r') => failView .transportError .failTransport [] false [tx] w r'
  | (.endOfStream, reply, r') => logicalReply tx strict reply w r'

theorem logicalSecond_blocked (h : gather r = (.blocked, rest, r')) :
    logicalSecond tx strict w r = blockedView .awaitingReply .readReply [] false [tx] w := by
  rw [logicalSecond, h]

theorem logicalSecond_err (h : gather r = (.err, rest, r')) :
    logicalSecond tx strict w r = failView .transportError .failTransport [] false [tx] w r' := by
  rw [logicalSecond, h]

theorem logicalSecond_ended (h : gather r = (.endOfStream, reply, r')) :
    logicalSecond tx strict w r = logicalReply tx strict reply w r' := by
  rw [logicalSecond, h]

theorem logicalAck_blocked (h : gather r = (.blocked, rest, r')) :
    logicalAck tx strict w r = blockedView .awaitingAck .readAck [] false [tx] w := by
  rw [logicalAck, h]

theorem logicalAck_err (h : gather r = (.err, rest, r')) :
    logicalAck tx strict w r = failView .transportError .failTransport [] false [tx] w r' := by
  rw [logicalAck, h]

theorem logicalAck_empty (h : gather r = (.endOfStream, [], r')) :
    logicalAck tx strict w r = failView .noAck .failNoAck [] false [tx] w r' := by
  rw [logicalAck, h]

theorem logicalAck_other {b : Byte} (h : gather r = (.endOfStream, b :: rest, r')) (hb : b ≠ ACK) :
    logicalAck tx strict w r =
      { failView .noAck .failNoAck [] false [tx] w r' with errInfo := b, noAckV := true } := by
  rw [logicalAck, h]
  exact if_pos hb

/-- After an ACK byte the bytes behind it are the whole reply; if none is, a second accumulation is run. -/
theorem logicalAck_ack (h : gather r = (.endOfStream, ACK :: rest, r')) :
    logicalAck tx strict w r =
      if rest = [] then logicalSecond tx strict w r' else logicalReply tx strict rest w r' := by
  rw [logicalAck, h]
  cases rest <;> rfl

theorem logicalAck_coalesced (h : gather r = (.endOfStream, ACK :: reply, r')) (hne : reply ≠ []) :
    logicalAck tx strict w r = logicalReply tx strict reply w r' := by
  rw [logicalAck_ack h, if_neg hne]

theorem logicalAck_alone (h : gather r = (.endOfStream, [ACK], r')) :
    logicalAck tx strict w r = logicalSecond tx strict w r' := by
  rw [logicalAck_ack h, if_pos rfl]

theorem logicalExchange_accepted {n : Nat} (hn : tx.length = n) :
    logicalExchange x tx strict (.ok n :: w) r = logicalAck tx strict w r :=
  if_pos (accepts_iff.2 (by rw [hn]))

theorem logicalExchange_refused {n : Nat} (hn : tx.length = n) (h : a ≠ .ok n) :
    logicalExchange x tx strict (a :: w) r = failView .transportError .failTransport [] false [tx] w r :=
  if_neg (mt accepts_iff.1 (by rwa [hn]))

end

end Sys2Proof.Machine
end

section
/-! The sequencer with its bounded storage against the exchange over the logical accumulations (42_exchange.md R154,
R171). -/

namespace Sys2Proof.Machine

/-! ### An exchange under way -/

/-- The exchange started in `s₀` has come to `s` without a failure, and has written these sequences. -/
structure Underway (s₀ s : State) (ws : List (List Byte)) : Prop where
  op : s.op ≠ .transact
  err : s.err = .none_
  errInfo : s.errInfo = 0x00#8
  noAckV : s.noAckV = false
  writes : writesOf s.trace = writesOf s₀.trace ++ ws

/-- The same before the reply has been stored: RXLEN and BCCERR are as the start actions left them (42_exchange.md
R157). -/
structure Sent (s₀ s : State) (tx : List Byte) : Prop extends Underway s₀ s [tx] where
  rxLen : s.rxLen = 0#11
  bccErr : s.bccErr = false

section
variable {s₀ s t : State} {tx bs : List Byte} {ws : List (List Byte)}

/-- An update that touches none of what is shown keeps the exchange under way. -/
theorem Underway.congr (h : Underway s₀ s ws) (hop : t.op = s.op) (herr : t.err = s.err) (hinfo : t.errInfo = s.errInfo)
    (hno : t.noAckV = s.noAckV) (hw : writesOf t.trace = writesOf s.trace) : Underway s₀ t ws :=
  ⟨hop ▸ h.op, herr.trans h.err, hinfo.trans h.errInfo, hno.trans h.noAckV, hw.trans h.writes⟩

theorem Underway.callWrite (h : Underway s₀ s ws) (b : List Byte) (c : Call) :
    Underway s₀ (callWrite b c s) (ws ++ [b]) where
  op := h.op
  err := h.err
  errInfo := h.errInfo
  noAckV := h.noAckV
  writes := by
    refine (writesOf_write b s.trace).trans ?_
    rw [h.writes, List.append_assoc]

theorem Sent.accumulated (h : Sent s₀ s tx) (as : List RAnswer) : Sent s₀ (accumulated as s) tx := by
  have hw : writesOf (answered as ++ s.trace) = writesOf s.trace := by
    rw [writesOf_append, writesOf_answered, List.append_nil]
  rw [accumulated_frame]
  exact ⟨h.toUnderway.congr rfl rfl rfl rfl hw, h.rxLen, h.bccErr⟩

theorem rxReply_of_rxLen_zero (h : s.rxLen = 0#11) : rxReply s = [] := by simp [rxReply, h, Memory.take]

theorem rxLen_of_rxReply_nil (h : rxReply s = []) : s.rxLen = 0#11 := by
  have hlen := rxReply_length s
  rw [h] at hlen
  exact BitVec.eq_of_toNat_eq hlen.symm

/-! ### What is shown -/

theorem exchangeView_underway (h : Underway s₀ s ws) :
    exchangeView s₀ s =
      { blockedView s.xstate s.call (rxReply s) s.bccErr ws s.wAns with rLeft := s.rAns } := by
  rw [exchangeView, h.err, h.errInfo, h.noAckV, h.writes, List.drop_left]
  rfl

theorem exchangeView_failExchange (f : Err) (i : Byte) (x : XState)
    (hw : writesOf s.trace = writesOf s₀.trace ++ ws) :
    exchangeView s₀ (failExchange f i x s) =
      { failView f x (rxReply s) s.bccErr ws s.wAns s.rAns with errInfo := i, noAckV := s.noAckV } := by
  have hw' : writesOf (failExchange f i x s).trace = writesOf s₀.trace ++ ws := hw
  rw [exchangeView, hw', List.drop_left]
  rfl

theorem exchangeView_fails (f : Err) (x : XState) (h : Underway s₀ s ws) :
    exchangeView s₀ (failExchange f 0x00#8 x s) = failView f x (rxReply s) s.bccErr ws s.wAns s.rAns := by
  rw [exchangeView_failExchange f _ x h.writes, h.noAckV]
  rfl

/-! ### The transitions, last first -/

theorem awaitAckWrite_view (h : Underway s₀ s [tx, [ACK]]) (hx : s.xstate = .replyReceived) (hc : s.call = .writeAck) :
    exchangeView s₀ (awaitAckWrite s) = logicalAckWrite tx (rxReply s) s.bccErr s.wAns s.rAns := by
  rw [awaitAckWrite_eq]
  cases hw : s.wAns with
  | nil =>
    rw [afterWrite_nil hw, exchangeView_underway h, hx, hc, hw]
    rfl
  | cons a as =>
    rw [afterWrite_cons hw]
    by_cases ha : a = .ok 1
    · have hop : (setX .done (leaveW as s)).op ≠ .transact := h.op
      have hdone : Underway s₀ (endOp (setX .done (leaveW as s))) [tx, [ACK]] :=
        ⟨nofun, h.err, h.errInfo, h.noAckV, h.writes⟩
      rw [if_pos (accepts_iff.2 ha), handOver_of_xchg hop, exchangeView_underway hdone, ha]
      rfl
    · have hleft : Underway s₀ (leaveW as s) [tx, [ACK]] := h.congr rfl rfl rfl rfl rfl
      rw [if_neg (mt accepts_iff.1 ha), exchangeView_fails _ _ hleft, logicalAckWrite_failed ha]
      rfl

theorem acknowledge_view (h : Underway s₀ s [tx]) :
    exchangeView s₀ (acknowledge s) = logicalAckWrite tx (rxReply s) s.bccErr s.wAns s.rAns := by
  have hentered : Underway s₀ (setX .replyReceived s) [tx] := h.congr rfl rfl rfl rfl rfl
  exact awaitAckWrite_view (hentered.callWrite [ACK] .writeAck) rfl rfl

/-- The reply stands in RXBUF and BCCERR is still down (42_exchange.md R165). -/
theorem checkReply_view (h : Underway s₀ s [tx]) (hbad : s.bccErr = false) :
    exchangeView s₀ (checkReply s) =
      if bufferVerifies (rxReply s) = false ∧ s.strict = true then
        failView .checksumMismatch .failDecode (rxReply s) true [tx] s.wAns s.rAns
      else logicalAckWrite tx (rxReply s) (!bufferVerifies (rxReply s)) s.wAns s.rAns := by
  have hbccErr (ok : Bool) (b : Byte) : (recordChecksum ok (setBccAcc b s)).bccErr = !ok := by simp [hbad]
  have hchecked (ok : Bool) (b : Byte) : Underway s₀ (recordChecksum ok (setBccAcc b s)) [tx] :=
    h.congr rfl rfl rfl rfl rfl
  unfold checkReply
  dsimp only
  split
  · rename_i hmismatch
    rw [exchangeView_fails _ _ (hchecked _ _), hbccErr, hmismatch.1]
    simp [rxReply]
  · rw [acknowledge_view (hchecked _ _), hbccErr]
    simp [rxReply]

theorem replyComplete_view (h : Sent s₀ s tx) (hb : Holds bs s) :
    exchangeView s₀ (replyComplete s) = logicalReply tx s.strict bs s.wAns s.rAns := by
  unfold replyComplete
  by_cases hlarge : Config.maxFrame < bs.length
  · have hforgot : Underway s₀ (forgetReply s) [tx] := h.toUnderway.congr rfl rfl rfl rfl rfl
    have hreply : rxReply (forgetReply s) = [] := rxReply_of_rxLen_zero h.rxLen
    rw [if_pos (hb.overflow.trans (decide_eq_true hlarge)), exchangeView_fails _ _ hforgot, hreply,
      logicalReply_tooLarge hlarge]
    exact congrArg (failView .frameTooLarge .failDecode [] · [tx] s.wAns s.rAns) h.bccErr
  have hroom : ¬s.rxOvf = true := by simp [hb.overflow, hlarge]
  have hstored : Underway s₀ (storeReplyLength s) [tx] := h.toUnderway.congr rfl rfl rfl rfl rfl
  have hreply : rxReply (storeReplyLength s) = bs := hb.rxReply_storeReplyLength (Nat.not_lt.1 hlarge)
  rw [if_neg hroom]
  by_cases hempty : bs = []
  · rw [if_pos (hb.rxFill_eq_zero_iff.2 hempty), exchangeView_fails _ _ hstored, hreply, hempty]
    exact congrArg (failView .truncatedFrame .failDecode [] · [tx] s.wAns s.rAns) h.bccErr
  · rw [if_neg (mt hb.rxFill_eq_zero_iff.1 hempty), checkReply_view hstored h.bccErr, hreply,
      logicalReply_checked hempty (Nat.not_lt.1 hlarge)]
    rfl

/-- An accumulation that fails discards what it delivered (42_exchange.md R160, R162). -/
theorem readFailed_view (h : Sent s₀ s tx) :
    exchangeView s₀ (readFailed s) = failView .transportError .failTransport [] false [tx] s.wAns s.rAns := by
  have hforgot : Underway s₀ (forgetReply s) [tx] := h.toUnderway.congr rfl rfl rfl rfl rfl
  have hreply : rxReply (forgetReply s) = [] := rxReply_of_rxLen_zero h.rxLen
  rw [readFailed, exchangeView_fails _ _ hforgot, hreply]
  exact congrArg (failView .transportError .failTransport [] · [tx] s.wAns s.rAns) h.bccErr

/-- A block blocked in an accumulation shows no reply (42_exchange.md R155). -/
theorem reading_view (h : Sent s₀ s tx) (hr : s.rAns = []) :
    exchangeView s₀ s = blockedView s.xstate s.call [] false [tx] s.wAns := by
  rw [exchangeView_underway h.toUnderway, rxReply_of_rxLen_zero h.rxLen, h.bccErr, hr]
  rfl

/-- An accumulation without an end takes every answer (42_exchange.md R155). -/
theorem gather_left_of_blocked {as left : List RAnswer} (h : gather as = (.blocked, bs, left)) : left = [] := by
  obtain ⟨hleft, -⟩ := accum_blocked (s := State.reset) ((accum_eq as _).trans (by rw [h]))
  rw [accumulated_frame, h] at hleft
  exact hleft

section
variable {as left : List RAnswer} {e : AccumEnd} (hg : gather as = (e, bs, left))
include hg

/-- What an accumulation leaves as it was, and the answers it leaves. -/
theorem accumulated_keeps :
    (accumulated as s).xstate = s.xstate ∧ (accumulated as s).call = s.call ∧ (accumulated as s).wAns = s.wAns ∧
      (accumulated as s).strict = s.strict ∧ (accumulated as s).rAns = left := by
  rw [accumulated_frame, hg]
  exact ⟨rfl, rfl, rfl, rfl, rfl⟩

end

theorem awaitReply_view (h : Sent s₀ s tx) (hx : s.xstate = .awaitingReply) (hc : s.call = .readReply)
    (hv : s.ackV = true) (hb : Holds [] s) :
    exchangeView s₀ (awaitReply s) = logicalSecond tx s.strict s.wAns s.rAns := by
  rcases hg : gather s.rAns with ⟨e, bs, left⟩
  obtain ⟨hx', hc', hw, hstrict, hleft⟩ := accumulated_keeps (s := s) hg
  have hsent := h.accumulated s.rAns
  rw [awaitReply_eq_accumulated, hg]
  cases e with
  | blocked =>
    refine (reading_view hsent (hleft.trans (gather_left_of_blocked hg))).trans ?_
    rw [hx', hx, hc', hc, hw, logicalSecond_blocked hg]
  | err =>
    refine (readFailed_view hsent).trans ?_
    rw [hw, hleft, logicalSecond_err hg]
  | endOfStream =>
    have hholds := accumulated_holds (as := s.rAns) hv hb
    rw [hg] at hholds
    refine (replyComplete_view hsent hholds).trans ?_
    rw [hstrict, hw, hleft, logicalSecond_ended hg]

/-- ACK came alone: the second accumulation is run on what the first one left (42_exchange.md R162). -/
theorem firstByteTest_alone (hv : s.ackV = true) (hack : s.ackByte = ACK) (hb : Holds [] s) :
    firstByteTest s = awaitReply (setCall .readReply (setX .awaitingReply (setX .ackReceived s))) :=
  (if_pos ⟨hv, hack⟩).trans (if_pos (hb.rxFill_eq_zero_iff.2 rfl))

theorem firstByteTest_coalesced (hv : s.ackV = true) (hack : s.ackByte = ACK) (hb : Holds bs s) (hne : bs ≠ []) :
    firstByteTest s = replyComplete (setX .awaitingReply (setX .ackReceived s)) :=
  (if_pos ⟨hv, hack⟩).trans (if_neg (mt hb.rxFill_eq_zero_iff.1 hne))

theorem Sent.ackReceived (h : Sent s₀ s tx) : Sent s₀ (setX .awaitingReply (setX .ackReceived s)) tx :=
  ⟨h.toUnderway.congr rfl rfl rfl rfl rfl, h.rxLen, h.bccErr⟩

theorem Sent.reading (h : Sent s₀ s tx) (c : Call) : Sent s₀ (setCall c s) tx :=
  ⟨h.toUnderway.congr rfl rfl rfl rfl rfl, h.rxLen, h.bccErr⟩

theorem Holds.ackReceived (hb : Holds bs s) : Holds bs (setX .awaitingReply (setX .ackReceived s)) :=
  ⟨hb.fill, hb.overflow, hb.bytes⟩

theorem Holds.reading (hb : Holds bs s) (c : Call) : Holds bs (setCall c s) := ⟨hb.fill, hb.overflow, hb.bytes⟩

theorem firstByteTest_ack_view (h : Sent s₀ s tx) (hv : s.ackV = true) (hack : s.ackByte = ACK) (hb : Holds bs s) :
    exchangeView s₀ (firstByteTest s) =
      if bs = [] then logicalSecond tx s.strict s.wAns s.rAns else logicalReply tx s.strict bs s.wAns s.rAns := by
  split
  · subst bs
    rw [firstByteTest_alone hv hack hb]
    exact awaitReply_view (h.ackReceived.reading .readReply) rfl rfl hv (hb.ackReceived.reading .readReply)
  · rw [firstByteTest_coalesced hv hack hb ‹_›]
    exact replyComplete_view h.ackReceived hb.ackReceived

/-- NoAck shows the first byte, if there was one (42_exchange.md R161). -/
theorem noAck_view (h : Sent s₀ s tx) :
    exchangeView s₀ (noAck s) =
      { failView .noAck .failNoAck [] false [tx] s.wAns s.rAns with errInfo := noAckInfo s, noAckV := s.ackV } := by
  have hreply : rxReply (forgetReply (recordNoAckByte s)) = [] := rxReply_of_rxLen_zero h.rxLen
  rw [noAck, exchangeView_failExchange _ _ _ (s := forgetReply (recordNoAckByte s)) h.writes, hreply]
  simp [h.bccErr]

theorem firstByteTest_other (h : ¬(s.ackV = true ∧ s.ackByte = ACK)) : firstByteTest s = noAck s := if_neg h

theorem awaitAck_view (h : Sent s₀ s tx) (hx : s.xstate = .awaitingAck) (hc : s.call = .readAck) (hs : Unfilled s) :
    exchangeView s₀ (awaitAck s) = logicalAck tx s.strict s.wAns s.rAns := by
  rcases hg : gather s.rAns with ⟨e, bs, left⟩
  obtain ⟨hx', hc', hw, hstrict, hleft⟩ := accumulated_keeps (s := s) hg
  have hsent := h.accumulated s.rAns
  rw [awaitAck_eq_accumulated, hg]
  cases e with
  | blocked =>
    refine (reading_view hsent (hleft.trans (gather_left_of_blocked hg))).trans ?_
    rw [hx', hx, hc', hc, hw, logicalAck_blocked hg]
  | err =>
    refine (readFailed_view hsent).trans ?_
    rw [hw, hleft, logicalAck_err hg]
  | endOfStream =>
    rw [afterAccum]
    cases bs with
    | nil =>
      have hv := accumulated_empty (as := s.rAns) (s := s) (by rw [hg]) hs.ackV
      rw [firstByteTest_other (by simp [hv]), noAck_view hsent, noAckInfo, hv, hw, hleft, logicalAck_empty hg]
      rfl
    | cons a rest =>
      obtain ⟨hv, hbyte, hholds⟩ := accumulated_first (as := s.rAns) (s := s) (by rw [hg]) hs
      by_cases hack : a = ACK
      · subst hack
        rw [firstByteTest_ack_view hsent hv hbyte hholds, hstrict, hw, hleft, logicalAck_ack hg]
      · rw [firstByteTest_other (by simp [hbyte, hack]), noAck_view hsent, noAckInfo, hv, if_pos rfl, hbyte, hw, hleft,
          logicalAck_other hg hack]

end

/-! ### The start -/

/-- The block as it enters the first accumulation, its request accepted (42_exchange.md R159). -/
def requestAccepted (o : Op) (w : List WAnswer) (s : State) : State :=
  setCall .readAck (setX .awaitingAck (setX .sent (leaveW w (requestOut o s))))

section
variable {o : Op} {s : State} {a : WAnswer} {w : List WAnswer}

theorem startExchange_eq_afterWrite :
    startExchange o s = afterWrite s.txLen.toNat requestSent (requestOut o s) := rfl

theorem startExchange_waiting (h : s.wAns = []) : startExchange o s = requestOut o s :=
  startExchange_eq_afterWrite.trans (afterWrite_nil (s := requestOut o s) h)

theorem startExchange_accepted (h : s.wAns = .ok s.txLen.toNat :: w) :
    startExchange o s = awaitAck (requestAccepted o w s) := by
  rw [startExchange_eq_afterWrite, afterWrite_cons (s := requestOut o s) h, if_pos (accepts_iff.2 rfl)]
  rfl

theorem startExchange_refused (h : s.wAns = a :: w) (ha : a ≠ .ok s.txLen.toNat) :
    startExchange o s = failExchange .transportError 0x00#8 .failTransport (leaveW w (requestOut o s)) := by
  rw [startExchange_eq_afterWrite, afterWrite_cons (s := requestOut o s) h, if_neg (mt accepts_iff.1 ha)]

theorem requestAccepted_unfilled : Unfilled (requestAccepted o w s) := ⟨rfl, rfl, rfl⟩

@[simp] theorem requestAccepted_strict : (requestAccepted o w s).strict = cfgStrict s := by
  simp [requestAccepted, requestOut]

@[simp] theorem requestAccepted_wAns : (requestAccepted o w s).wAns = w := by simp [requestAccepted]

@[simp] theorem requestAccepted_rAns : (requestAccepted o w s).rAns = s.rAns := by simp [requestAccepted, requestOut]

theorem requestOut_sent : Sent s (requestOut .xchg s) (txFrame s) where
  op := nofun
  err := rfl
  errInfo := rfl
  noAckV := rfl
  writes := writesOf_write (txFrame s) s.trace
  rxLen := rfl
  bccErr := rfl

theorem requestAccepted_sent : Sent s (requestAccepted .xchg w s) (txFrame s) :=
  ⟨requestOut_sent.toUnderway.congr rfl rfl rfl rfl rfl, rfl, rfl⟩

/-- XCHG shows the logical exchange, whatever the transport's script. -/
theorem startExchange_view :
    exchangeView s (startExchange .xchg s) = logicalExchange s.xstate (txFrame s) (cfgStrict s) s.wAns s.rAns := by
  cases hw : s.wAns with
  | nil =>
    rw [startExchange_waiting hw, exchangeView_underway requestOut_sent.toUnderway, rxReply_of_rxLen_zero rfl]
    simp [requestOut, logicalExchange, hw]
  | cons a w =>
    by_cases ha : a = .ok s.txLen.toNat
    · subst ha
      rw [startExchange_accepted hw, awaitAck_view requestAccepted_sent rfl rfl requestAccepted_unfilled,
        requestAccepted_strict, requestAccepted_wAns, requestAccepted_rAns, logicalExchange_accepted (txFrame_length s)]
    · have hleft : Underway s (leaveW w (requestOut .xchg s)) [txFrame s] :=
        requestOut_sent.toUnderway.congr rfl rfl rfl rfl rfl
      rw [startExchange_refused hw ha, exchangeView_fails _ _ hleft, logicalExchange_refused (txFrame_length s) ha,
        rxReply_of_rxLen_zero rfl]
      simp [requestOut]

end

/-- Settles O27: each transition, last first, shows what its counterpart over the logical accumulation shows. -/
theorem xchgRefinesTheLogicalExchange : Obligations.XchgRefinesTheLogicalExchange := fun s hi hl =>
  ⟨startExchange .xchg s, exec_xchg_of_frame hi hl, startExchange_view⟩

end Sys2Proof.Machine
end

section
/-! The ends of an exchange, each read off the logical exchange (42_exchange.md R158 to R170, 60_exceptions.md R201,
R202). -/

namespace Sys2Proof.Machine

/-- An XCHG started in `s` has led to `t`, which shows `v`; the decoder has not run. -/
structure XchgShows (s t : State) (v : ExchangeView) : Prop where
  xstate : t.xstate = v.xstate
  call : t.call = v.call
  err : t.err = v.err
  errInfo : t.errInfo = v.errInfo
  noAckV : t.noAckV = v.noAckV
  bccErr : t.bccErr = v.bccErr
  reply : rxReply t = v.reply
  writes : writesOf t.trace = writesOf s.trace ++ v.writes
  wLeft : t.wAns = v.wLeft
  rLeft : t.rAns = v.rLeft
  rkind : t.rkind = .none_

/-- What was written before the exchange stays in front. -/
theorem startExchange_writes (o : Op) (s : State) :
    writesOf (startExchange o s).trace =
      writesOf s.trace ++ (writesOf (startExchange o s).trace).drop (writesOf s.trace).length := by
  obtain ⟨later, h⟩ := (keptByExchange_observedBefore s.trace).startExchange o s List.suffix_rfl
  rw [← h, writesOf_append, List.drop_left]

theorem startExchange_shows (s : State) :
    XchgShows s (startExchange .xchg s) (logicalExchange s.xstate (txFrame s) (cfgStrict s) s.wAns s.rAns) := by
  rw [← startExchange_view]
  exact ⟨rfl, rfl, rfl, rfl, rfl, rfl, rfl, startExchange_writes .xchg s, rfl, rfl, (startExchange_xchgFrom s).rkind⟩

namespace XchgShows

variable {s t : State} {v : ExchangeView}

theorem isIdle (h : XchgShows s t v) (hc : v.call = .none_) (hx : v.xstate.isRest = true) : t.isIdle = true := by
  simp [State.isIdle, h.call, hc, h.xstate, hx]

theorem rxLen (h : XchgShows s t v) : t.rxLen.toNat = v.reply.length := by rw [← h.reply, rxReply_length]

theorem rxLen_zero (h : XchgShows s t v) (hr : v.reply = []) : t.rxLen = 0#11 :=
  rxLen_of_rxReply_nil (h.reply.trans hr)

end XchgShows

section
variable {s : State} {w : List WAnswer} {r : List RAnswer} {bs : List Byte} {v : ExchangeView}

/-- The request was accepted: what follows is the logical exchange from the first accumulation on. -/
theorem startExchange_shows_accepted (hw : s.wAns = .ok s.txLen.toNat :: w)
    (hv : logicalAck (txFrame s) (cfgStrict s) w s.rAns = v) : XchgShows s (startExchange .xchg s) v := by
  rw [← hv, ← logicalExchange_accepted (x := s.xstate) (txFrame_length s), ← hw]
  exact startExchange_shows s

/-- NoAck shows the first byte and whether there was one (10_state.md R33, R34). -/
theorem logicalAck_noAck {tx : List Byte} {strict : Bool} {as : List RAnswer} (hg : gather as = (.endOfStream, bs, r))
    (hb : bs.head? ≠ some ACK) :
    logicalAck tx strict w as =
      { failView .noAck .failNoAck [] false [tx] w r with errInfo := bs.headD 0x00#8, noAckV := !bs.isEmpty } := by
  cases bs with
  | nil => exact logicalAck_empty hg
  | cons b rest => exact logicalAck_other hg (by simpa using hb)

end

/-- Settles O29: a second accumulation, a reply that passes, and an accepted ACK write. -/
theorem xchgReachesDone : Obligations.XchgReachesDone := by
  intro s w r r' reply hi hl hw hack hreply hne hfit hok
  have h := startExchange_shows_accepted hw ((logicalAck_alone hack).trans ((logicalSecond_ended hreply).trans
    ((logicalReply_passes hne hfit hok).trans logicalAckWrite_ok)))
  exact ⟨_, exec_xchg_of_frame hi hl, h.xstate, h.err, h.errInfo, h.rkind, h.bccErr, h.noAckV, h.rxLen, h.reply,
    h.isIdle rfl rfl, h.writes, h.wLeft, h.rLeft⟩

/-- Settles O30: as O29, but the reply is already there when the first accumulation ends. -/
theorem coalescedReplyReachesDone : Obligations.CoalescedReplyReachesDone := by
  intro s w r reply hi hl hw hack hne hfit hok
  have h := startExchange_shows_accepted hw ((logicalAck_coalesced hack hne).trans
    ((logicalReply_passes hne hfit hok).trans logicalAckWrite_ok))
  exact ⟨_, exec_xchg_of_frame hi hl, h.xstate, h.err, h.bccErr, h.reply, h.isIdle rfl rfl, h.writes, h.wLeft, h.rLeft⟩

/-- Settles O31: the two cases of the first accumulation that are no acknowledge. -/
theorem firstByteOtherThanAckIsNoAck : Obligations.FirstByteOtherThanAckIsNoAck := by
  intro s w bs r hi hl hw hg hb
  have h := startExchange_shows_accepted hw (logicalAck_noAck hg hb)
  exact ⟨_, exec_xchg_of_frame hi hl, h.xstate, h.err, h.errInfo, h.noAckV, h.bccErr, h.rkind, h.rxLen_zero rfl,
    h.isIdle rfl rfl, h.writes, h.wLeft, h.rLeft⟩

/-- Settles O32: the reply is stored before it is judged. -/
theorem strictMismatchEndsTheExchange : Obligations.StrictMismatchEndsTheExchange := by
  intro s w r reply hi hl hw hstrict hack hne hfit hbad
  have h := startExchange_shows_accepted hw ((logicalAck_coalesced hack hne).trans
    ((logicalReply_checked hne hfit).trans (if_pos ⟨hbad, hstrict⟩)))
  exact ⟨_, exec_xchg_of_frame hi hl, h.xstate, h.err, h.errInfo, h.bccErr, h.rkind, h.reply, h.isIdle rfl rfl, h.writes⟩

/-! ### Transport failures -/

section
variable {s : State} {w : List WAnswer} {r r' : List RAnswer} {bs : List Byte}

/-- What a failed accumulation had delivered is listed in RXBUF no more (60_exceptions.md R211; log entry 6). -/
theorem readFailed_cells (s : State) : (readFailed s).rxBuf.cells = [] := rfl

theorem awaitAck_of_err (h : gather s.rAns = (.err, bs, r)) : awaitAck s = readFailed (accumulated s.rAns s) := by
  rw [awaitAck_eq_accumulated, h]
  rfl

theorem awaitReply_of_err (h : gather s.rAns = (.err, bs, r)) : awaitReply s = readFailed (accumulated s.rAns s) := by
  rw [awaitReply_eq_accumulated, h]
  rfl

/-- An ACK byte alone leads to the second accumulation, over the answers that are left (42_exchange.md R162). -/
theorem awaitAck_of_alone (hs : Unfilled s) (h : gather s.rAns = (.endOfStream, [ACK], r)) :
    ∃ t : State, awaitAck s = awaitReply t ∧ t.rAns = r := by
  obtain ⟨-, -, -, -, hleft⟩ := accumulated_keeps (s := s) h
  obtain ⟨hv, hbyte, hholds⟩ := accumulated_first (as := s.rAns) (s := s) (by rw [h]) hs
  refine ⟨setCall .readReply (setX .awaitingReply (setX .ackReceived (accumulated s.rAns s))), ?_, hleft⟩
  rw [awaitAck_eq_accumulated, h]
  exact firstByteTest_alone hv hbyte hholds

theorem startExchange_cells_of_ackErr (hw : s.wAns = .ok s.txLen.toNat :: w) (hg : gather s.rAns = (.err, bs, r)) :
    (startExchange .xchg s).rxBuf.cells = [] := by
  rw [startExchange_accepted hw, awaitAck_of_err (by rwa [requestAccepted_rAns])]
  exact readFailed_cells _

theorem startExchange_cells_of_replyErr (hw : s.wAns = .ok s.txLen.toNat :: w)
    (hack : gather s.rAns = (.endOfStream, [ACK], r)) (hg : gather r = (.err, bs, r')) :
    (startExchange .xchg s).rxBuf.cells = [] := by
  rw [← requestAccepted_rAns (o := .xchg) (w := w)] at hack
  obtain ⟨t, ht, rfl⟩ := awaitAck_of_alone requestAccepted_unfilled hack
  rw [startExchange_accepted hw, ht, awaitReply_of_err hg]
  exact readFailed_cells _

end

/-- Settles O33, place by place. -/
theorem transportErrorsEndTheExchange : Obligations.TransportErrorsEndTheExchange := by
  intro s hi hl failed
  have hexec := exec_xchg_of_frame hi hl
  have hfailed {reply : List Byte} {ws : List (List Byte)} {w : List WAnswer} {r : List RAnswer}
      (h : XchgShows s (startExchange .xchg s) (failView .transportError .failTransport reply false ws w r)) :
      failed (startExchange .xchg s) :=
    ⟨h.xstate, h.err, h.errInfo, h.rkind, h.noAckV, h.isIdle rfl rfl⟩
  refine ⟨fun a w hw ha => ?request, fun w bs r hw hg => ?ack, fun w bs r r' hw hack hg => ?reply,
    fun a w reply r hw ha hack hne hfit hok => ?ackWrite⟩
  case request =>
    have h := startExchange_shows s
    rw [hw, logicalExchange_refused (txFrame_length s) ha] at h
    exact ⟨_, hexec, hfailed h, h.rxLen_zero rfl, h.rLeft⟩
  case ack =>
    have h := startExchange_shows_accepted hw (logicalAck_err hg)
    exact ⟨_, hexec, hfailed h, h.rxLen_zero rfl, startExchange_cells_of_ackErr hw hg, h.rLeft⟩
  case reply =>
    have h := startExchange_shows_accepted hw ((logicalAck_alone hack).trans (logicalSecond_err hg))
    exact ⟨_, hexec, hfailed h, h.rxLen_zero rfl, startExchange_cells_of_replyErr hw hack hg, h.rLeft⟩
  case ackWrite =>
    have h := startExchange_shows_accepted hw ((logicalAck_coalesced hack hne).trans
      ((logicalReply_passes hne hfit (.inl hok)).trans (logicalAckWrite_failed ha)))
    rw [hok] at h
    exact ⟨_, hexec, hfailed h, h.reply, h.bccErr⟩

/-! ### Replies without a size -/

/-- A reply of no byte, or of more than RXBUF holds, is not stored (42_exchange.md R163, R164). -/
theorem logicalReply_unfit {tx reply : List Byte} {strict : Bool} {w : List WAnswer} {r : List RAnswer}
    (h : reply = [] ∨ 1024 < reply.length) :
    logicalReply tx strict reply w r =
      failView (if reply = [] then .truncatedFrame else .frameTooLarge) .failDecode [] false [tx] w r := by
  obtain rfl | hlarge := h
  · exact logicalReply_empty
  · have hne : reply ≠ [] := List.ne_nil_of_length_pos (by omega)
    rw [logicalReply_tooLarge hlarge, if_neg hne]

/-- Settles O34: neither reply reaches the checksum. -/
theorem overlongAndEmptyRepliesFailDecode : Obligations.OverlongAndEmptyRepliesFailDecode := by
  intro s w r r' reply hi hl hw hack hreply hunfit
  have h := startExchange_shows_accepted hw ((logicalAck_alone hack).trans ((logicalSecond_ended hreply).trans
    (logicalReply_unfit hunfit)))
  exact ⟨_, exec_xchg_of_frame hi hl, h.xstate, h.err, h.errInfo, h.rxLen_zero rfl, h.rkind, h.isIdle rfl rfl, h.writes⟩

end Sys2Proof.Machine
end

section
/-! TRANSACT against the operations it is made of (43_session.md R190): how a start ends, and the same exchange run
alone and inside TRANSACT. -/

namespace Sys2Proof.Machine

/-! ### Refused, ended by the encoder, or exchanging -/

section
variable {s t : State}

theorem exec_transact_of_isIdle (hi : s.isIdle = true) : exec .transact s = .next (transaction s) :=
  congrArg Host.Outcome.next (whenIdle_of_isIdle hi)

theorem transaction_of_tooLarge (h : Config.maxFrame < 9 + s.plen.toNat) : transaction s = encodeRequest s :=
  if_neg (by rw [encodeRequest_err, if_pos h]; nofun)

theorem transaction_of_fits (h : 9 + s.plen.toNat ≤ Config.maxFrame) :
    transaction s = startExchange .transact (encodeRequest s) :=
  if_pos (by rw [encodeRequest_err, if_neg (Nat.not_lt.2 h)])

/-- A frame has at least nine bytes, so the exchange that follows its encoding is not refused (42_exchange.md R156). -/
theorem encodeRequest_txLen_ne_zero (h : 9 + s.plen.toNat ≤ Config.maxFrame) : (encodeRequest s).txLen ≠ 0#11 := by
  intro hzero
  have hlen := encodeRequest_txLen h
  rw [hzero, BitVec.toNat_zero] at hlen
  omega

theorem encodeRequest_isIdle (hi : s.isIdle = true) : (encodeRequest s).isIdle = true :=
  (encodeRequest_standing s).isIdle.trans hi

/-- A started TRANSACT is refused, ends in the encoder, or exchanges the encoded frame. -/
theorem exec_transact_cases (h : exec .transact s = .next t) :
    (s.isIdle = false ∧ t = s) ∨
      (Config.maxFrame < 9 + s.plen.toNat ∧ t = encodeRequest s) ∨
      (9 + s.plen.toNat ≤ Config.maxFrame ∧ t = startExchange .transact (encodeRequest s)) := by
  obtain rfl : whenIdle transaction s = t := Host.Outcome.next.inj h
  cases hi : s.isIdle with
  | false => exact .inl ⟨rfl, whenIdle_of_busy hi⟩
  | true =>
    rw [whenIdle_of_isIdle hi]
    obtain hlarge | hfits := Nat.lt_or_ge Config.maxFrame (9 + s.plen.toNat)
    · exact .inr (.inl ⟨hlarge, transaction_of_tooLarge hlarge⟩)
    · exact .inr (.inr ⟨hfits, transaction_of_fits hfits⟩)

end

/-- Settles O43: the encoder's failure ends the operation before the exchange is started. -/
theorem transactStopsAtAnOversizedRequest : Obligations.TransactStopsAtAnOversizedRequest := by
  intro s hi hsize
  have hlarge : Config.maxFrame < 9 + s.plen.toNat := by unfold Config.maxFrame; omega
  rw [exec_transact_of_isIdle hi, transaction_of_tooLarge hlarge, encodeRequest_of_tooLarge hlarge]

/-! ### The same exchange alone and inside TRANSACT -/

/-- The block with its exchange running inside TRANSACT (43_session.md R190). -/
def inTransact (s : State) : State := { s with op := .transact }

/-- No transition tests which operation it belongs to, but for the end of a successful exchange. -/
theorem sameTests_inTransact (s : State) : SameTests s (inTransact s) := ⟨rfl, rfl, rfl, rfl, rfl, rfl, rfl, rfl⟩

/-- An exchange that no TRANSACT started waits for the transport, without a failure so far. -/
structure Alone (s : State) : Prop where
  op : s.op ≠ .transact
  err : s.err = .none_
  call : s.call ≠ .none_

/-- Where an exchange run alone has come to `u`, the same exchange inside TRANSACT has come to `t`: to the same call, to
the same failure, or through the decoder (42_exchange.md R173). -/
inductive TransactOf (u : State) : State → Prop
  | waits (hcall : u.call ≠ .none_) : TransactOf u (inTransact u)
  | fails (herr : u.err ≠ .none_) : TransactOf u u
  | decodes (hcall : u.call = .none_) (herr : u.err = .none_) (hx : u.xstate = .done) : TransactOf u (decodeReply u)

/-- The decoder leaves the operation in progress and its call alone. -/
theorem Decodes.endOp {r : List Byte} {s t : State} (h : Decodes r s t) : Decodes r (endOp s) (endOp t) := by
  cases h with
  | tooLarge h => exact .tooLarge h
  | tooShort h => exact .tooShort h
  | unknown h hpos hneg => exact .unknown h hpos hneg
  | truncatedPositive h hpos hlen => exact .truncatedPositive h hpos hlen
  | truncatedNegative h hneg hlen => exact .truncatedNegative h hneg hlen
  | positive h hpos hlen => exact .positive h hpos hlen
  | negative h hneg hlen => exact .negative h hneg hlen

theorem decodeReply_endOp (s : State) : decodeReply (endOp s) = endOp (decodeReply s) :=
  (decodes_iff.2 (rfl : decodeResponse (rxReply s) s = decodeReply s)).endOp.eq

theorem storeByte_inTransact (b : Byte) (s : State) : storeByte b (inTransact s) = inTransact (storeByte b s) := by
  unfold storeByte
  rw [apply_ite inTransact, apply_ite inTransact]
  rfl

theorem accumulated_inTransact (as : List RAnswer) (s : State) :
    accumulated as (inTransact s) = inTransact (accumulated as s) := by
  unfold accumulated
  rw [storeChunk_map storeByte_inTransact]
  rfl

namespace TransactOf

variable {s : State}

theorem failExchange (f : Err) (hf : f ≠ .none_) (i : Byte) (x : XState) (s : State) :
    TransactOf (failExchange f i x s) (failExchange f i x (inTransact s)) := .fails hf

/-- At its end the exchange alone keeps its reply undecoded; inside TRANSACT it hands it over. -/
theorem handOver (h : Alone s) (hx : s.xstate = .done) : TransactOf (handOver s) (handOver (inTransact s)) := by
  have hinside : Machine.handOver (inTransact s) = decodeReply (endOp s) :=
    (if_pos rfl).trans (decodeReply_endOp (inTransact s)).symm
  rw [hinside, handOver_of_xchg h.op]
  exact .decodes rfl h.err hx

theorem afterWrite {n : Nat} {k : State → State} (h : Alone s)
    (hk : ∀ as, TransactOf (k (leaveW as s)) (k (inTransact (leaveW as s)))) :
    TransactOf (afterWrite n k s) (afterWrite n k (inTransact s)) := by
  cases ha : s.wAns with
  | nil =>
    rw [afterWrite_nil ha, afterWrite_nil (s := inTransact s) ha]
    exact .waits h.call
  | cons a as =>
    rw [afterWrite_cons ha, afterWrite_cons (s := inTransact s) ha]
    split
    · exact hk as
    · exact failExchange .transportError nofun _ _ (leaveW as s)

theorem afterAccum {k : State → State} (h : Alone s)
    (hk : ∀ {t}, Alone t → TransactOf (k t) (k (inTransact t))) :
    TransactOf (afterAccum k ((gather s.rAns).1, accumulated s.rAns s))
      (Machine.afterAccum k ((gather s.rAns).1, accumulated s.rAns (inTransact s))) := by
  have hleft : Alone (accumulated s.rAns s) := by
    rw [accumulated_frame]
    exact ⟨h.op, h.err, h.call⟩
  rw [accumulated_inTransact]
  cases (gather s.rAns).1 with
  | blocked => exact .waits hleft.call
  | endOfStream => exact hk hleft
  | err => exact failExchange .transportError nofun _ _ (forgetReply (accumulated s.rAns s))

theorem awaitAckWrite (h : Alone s) : TransactOf (awaitAckWrite s) (awaitAckWrite (inTransact s)) := by
  rw [awaitAckWrite_eq, awaitAckWrite_eq]
  exact afterWrite h fun as => handOver (s := setX .done (leaveW as s)) ⟨h.op, h.err, h.call⟩ rfl

theorem acknowledge (h : Alone s) : TransactOf (acknowledge s) (acknowledge (inTransact s)) :=
  awaitAckWrite (s := callWrite [ACK] .writeAck (setX .replyReceived s)) ⟨h.op, h.err, nofun⟩

theorem checkReply (h : Alone s) : TransactOf (checkReply s) (checkReply (inTransact s)) := by
  unfold Machine.checkReply
  dsimp only
  rw [(sameTests_inTransact s).reply, (sameTests_inTransact s).strict]
  split
  · exact failExchange .checksumMismatch nofun _ _ (recordChecksum _ (setBccAcc _ s))
  · exact acknowledge (s := recordChecksum _ (setBccAcc _ s)) ⟨h.op, h.err, h.call⟩

theorem replyComplete (h : Alone s) : TransactOf (replyComplete s) (replyComplete (inTransact s)) := by
  unfold Machine.replyComplete
  rw [(sameTests_inTransact s).rxOvf, (sameTests_inTransact s).rxFill]
  split
  · exact failExchange .frameTooLarge nofun _ _ (forgetReply s)
  · split
    · exact failExchange .truncatedFrame nofun _ _ (storeReplyLength s)
    · exact checkReply (s := storeReplyLength s) ⟨h.op, h.err, h.call⟩

theorem awaitReply (h : Alone s) : TransactOf (awaitReply s) (awaitReply (inTransact s)) := by
  rw [awaitReply_eq_accumulated, awaitReply_eq_accumulated]
  exact afterAccum h replyComplete

theorem ackReceived (h : Alone s) : TransactOf (ackReceived s) (ackReceived (inTransact s)) := by
  unfold Machine.ackReceived
  dsimp only
  rw [(sameTests_inTransact s).rxFill]
  split
  · exact awaitReply (s := setCall .readReply (setX .awaitingReply (setX .ackReceived s))) ⟨h.op, h.err, nofun⟩
  · exact replyComplete (s := setX .awaitingReply (setX .ackReceived s)) ⟨h.op, h.err, h.call⟩

theorem firstByteTest (h : Alone s) : TransactOf (firstByteTest s) (firstByteTest (inTransact s)) := by
  unfold Machine.firstByteTest
  rw [(sameTests_inTransact s).ackV, (sameTests_inTransact s).ackByte]
  split
  · exact ackReceived h
  · exact failExchange .noAck nofun (noAckInfo s) _ (forgetReply (recordNoAckByte s))

theorem awaitAck (h : Alone s) : TransactOf (awaitAck s) (awaitAck (inTransact s)) := by
  rw [awaitAck_eq_accumulated, awaitAck_eq_accumulated]
  exact afterAccum h firstByteTest

/-- The whole exchange, from its start actions on (42_exchange.md R157). -/
theorem startExchange (s : State) : TransactOf (startExchange .xchg s) (startExchange .transact s) :=
  afterWrite (s := requestOut .xchg s) ⟨nofun, rfl, nofun⟩ fun as =>
    awaitAck (s := requestAccepted .xchg as s) ⟨nofun, rfl, nofun⟩

end TransactOf

theorem TransactOf.eq_decodeReply {u t : State} (h : TransactOf u t) (hcall : u.call = .none_)
    (herr : u.err = .none_) : t = decodeReply u := by
  cases h with
  | waits h => exact absurd hcall h
  | fails h => exact absurd herr h
  | decodes => rfl

/-- An exchange of the encoded frame that alone would end in Done is followed by the decoder (43_session.md R190). -/
theorem exec_transact_of_done {s u : State} (hi : s.isIdle = true) (hfits : 9 + s.plen.toNat ≤ Config.maxFrame)
    (hu : exec .xchg (encodeRequest s) = .next u) (hidle : u.isIdle = true) (herr : u.err = .none_) :
    exec .transact s = .next (decodeReply u) := by
  have hxchg := exec_xchg_of_frame (encodeRequest_isIdle hi) (encodeRequest_txLen_ne_zero hfits)
  obtain rfl := Host.Outcome.next.inj (hxchg.symm.trans hu)
  rw [exec_transact_of_isIdle hi, transaction_of_fits hfits]
  exact congrArg _ ((TransactOf.startExchange (encodeRequest s)).eq_decodeReply (call_of_isIdle hidle) herr)

/-- Settles O42: the encoder's failure, the exchange's failure, or the decoder on what the exchange left. -/
theorem transactIsEncodeExchangeDecode : Obligations.TransactIsEncodeExchangeDecode := by
  intro s t hi ht hended
  have hi₁ := encodeRequest_isIdle hi
  refine ⟨encodeRequest s, startExchange .xchg (encodeRequest s), exec_encReq_of_isIdle hi, ?_⟩
  obtain ⟨hbusy, -⟩ | ⟨hlarge, rfl⟩ | ⟨hfits, hrun⟩ := exec_transact_cases ht
  · exact absurd (hi.symm.trans hbusy) nofun
  · have herr₁ := (encodeRequest_err s).trans (if_pos hlarge)
    exact ⟨fun _ => rfl, fun hnone => absurd (herr₁.symm.trans hnone) nofun⟩
  have herr₁ := (encodeRequest_err s).trans (if_neg (Nat.not_lt.2 hfits))
  have hxchg := exec_xchg_of_frame hi₁ (encodeRequest_txLen_ne_zero hfits)
  refine ⟨fun hfail => absurd herr₁ hfail, fun _ => ⟨hxchg, ?_⟩⟩
  have hsame : TransactOf (startExchange .xchg (encodeRequest s)) t := hrun ▸ .startExchange (encodeRequest s)
  cases hsame with
  | waits hcall => exact absurd hended hcall
  | fails herr => exact ⟨fun _ => rfl, fun hnone => absurd hnone herr⟩
  | decodes hcall herr hx =>
    have hi₂ : (startExchange .xchg (encodeRequest s)).isIdle = true := by
      simp [State.isIdle, hcall, hx, XState.isRest]
    exact ⟨fun hfail => absurd herr hfail, fun _ => ⟨hx, exec_decRsp_of_isIdle hi₂⟩⟩

end Sys2Proof.Machine
end

section
/-! What TRANSACT leaves of the block: what it never writes (42_exchange.md R170, 41_frame_codec.md R124), and the
positive reply it returns (43_session.md R195). -/

namespace Sys2Proof.Machine

/-! ### What no TRANSACT writes -/

/-- A state with everything taken out that the rules of XCHG or DEC.RSP name (42_exchange.md R170, 41_frame_codec.md
R140). -/
def outsideReply (s : State) : State :=
  { outsideXchg s with
    rlen := 0#16, rdisc := 0x00#8, rst0 := 0x00#8, rst1 := 0x00#8, rst2 := 0x00#8, re1 := 0x00#8, re0 := 0x00#8
    rpoff := 0#11, rplen := 0#11 }

/-- An exchange, decoded or not, writes nothing else. -/
theorem keptByExchange_outsideReply (s₀ : State) : KeptByExchange fun s => outsideReply s = outsideReply s₀ where
  enter _ _ hs := hs
  observed _ _ hs := hs
  raise _ _ _ hs := hs
  endOp _ hs := hs
  forget _ hs := hs
  store b s hs := by rw [storeByte_frame]; exact hs
  wTaken _ _ hs := hs
  rTaken _ _ hs := hs
  reading _ _ hs := hs
  checksum _ _ hs := hs
  working _ _ hs := hs
  noAckByte _ hs := hs
  received _ hs := hs
  decode r s hs := by rw [decodeResponse_frame]; exact hs

theorem startExchange_outsideReply (o : Op) (s : State) : outsideReply (startExchange o s) = outsideReply s :=
  (keptByExchange_outsideReply s).startExchange o s rfl

theorem startExchange_txBuf (o : Op) (s : State) : (startExchange o s).txBuf = s.txBuf :=
  (congrArg State.txBuf (startExchange_outsideReply o s) :)

/-- The same with TXBUF and TXLEN taken out too: ENC.REQ writes nothing that is left (41_frame_codec.md R124). -/
def outsideTransact (s : State) : State :=
  { outsideReply s with txBuf := State.reset.txBuf, txLen := 0#11 }

theorem encodeRequest_outsideTransact (s : State) : outsideTransact (encodeRequest s) = outsideTransact s := by
  rw [encodeRequest_frame]
  rfl

theorem exec_transact_outside {s t : State} (h : exec .transact s = .next t) :
    outsideTransact t = outsideTransact s := by
  obtain ⟨-, rfl⟩ | ⟨-, rfl⟩ | ⟨-, rfl⟩ := exec_transact_cases h
  · rfl
  · exact encodeRequest_outsideTransact s
  · exact (congrArg outsideTransact (startExchange_outsideReply .transact (encodeRequest s))).trans
      (encodeRequest_outsideTransact s)

/-- Nothing is listed at or above the end of a stored byte sequence. -/
theorem findCell_cellsFrom_above {k i : Nat} {bs : List Byte} (h : k + bs.length ≤ i) :
    findCell (cellsFrom k bs) i = none := by
  induction bs generalizing k with
  | nil => rfl
  | cons b bs ih =>
    rw [List.length_cons] at h
    rw [cellsFrom, findCell, if_neg (by omega), ih (by omega)]

theorem encodeRequest_txBuf_above {s : State} {i : Nat} (h : 9 + s.plen.toNat ≤ Config.maxFrame)
    (hi : 9 + s.plen.toNat ≤ i) : findCell (encodeRequest s).txBuf.cells i = none := by
  rw [encodeRequest_of_fits h]
  exact findCell_cellsFrom_above (by rw [builtFrame_length]; omega)

/-- Settles O45: the host's side outside what TRANSACT writes, then the two buffers in each of its three outcomes. -/
theorem transactLeavesTheRestUnchanged : Obligations.TransactLeavesTheRestUnchanged := by
  intro s t ht
  have hkept {α : Type} (f : State → α) (hf : ∀ u, f (outsideTransact u) = f u) : f t = f s := by
    rw [← hf t, exec_transact_outside ht, hf]
  refine ⟨hkept State.raddr fun _ => rfl, hkept State.rcm fun _ => rfl, hkept State.rpm fun _ => rfl,
    hkept State.plen fun _ => rfl, hkept State.p fun _ => rfl, hkept State.cfg fun _ => rfl,
    hkept State.bccIn fun _ => rfl, hkept State.bccOut fun _ => rfl, hkept State.bccOk fun _ => rfl,
    hkept State.inbox fun _ => rfl, hkept State.hostData fun _ => rfl, ?_⟩
  obtain ⟨-, rfl⟩ | ⟨hlarge, rfl⟩ | ⟨hfits, rfl⟩ := exec_transact_cases ht
  · exact ⟨fun _ => ⟨rfl, rfl, rfl, rfl⟩, fun _ _ _ => .inr rfl⟩
  · rw [encodeRequest_of_tooLarge hlarge]
    exact ⟨fun _ => ⟨rfl, rfl, rfl, rfl⟩, fun _ _ _ => .inr rfl⟩
  · refine ⟨fun hsize => absurd hfits (by unfold Config.maxFrame; omega), fun i hi _ => .inl ?_⟩
    rw [startExchange_txBuf]
    exact encodeRequest_txBuf_above hfits hi

/-! ### The positive reply -/

/-- The payload view is a piece of the reply where the reply reaches that far (10_state.md R28). -/
theorem replyPayload_eq {s : State} (h : s.rpoff.toNat + s.rplen.toNat ≤ s.rxLen.toNat) :
    replyPayload s = ((rxReply s).drop s.rpoff.toNat).take s.rplen.toNat := by
  have hroom : s.rplen.toNat ≤ s.rxLen.toNat - s.rpoff.toNat := by omega
  refine List.ext_getElem ?_ fun i hi _ => ?_
  · simp [replyPayload, hroom]
  · simp [replyPayload, rxReply, Memory.take]

section
variable {s : State} {stx a : Byte} {len : Word16} {body : List Byte}
  (hreply : rxReply s = encode (.rspPos stx a len body)) (hfit : 5 + body.length ≤ 1024) (hmin : 6 ≤ len.toNat)
  (hmax : len.toNat ≤ body.length + 1)
include hreply hfit hmin hmax

/-- DEC.RSP on a well-formed positive reply (41_frame_codec.md R134). -/
theorem decodeReply_of_positive :
    decodeReply s = { s with
      rkind := .positive, rlen := len, rdisc := PMT
      rst0 := byteAt body 2, rst1 := byteAt body 3, rst2 := byteAt body 4
      rpoff := 10#11, rplen := BitVec.ofNat 11 (len.toNat - 6), err := .none_, errInfo := 0x00#8 } := by
  have hlen : ¬(len.toNat < 6 ∨ body.length + 1 < len.toNat) := by omega
  rw [decodeReply, hreply]
  exact (Decodes.positive (header_frameBytes hfit) rfl (mt outOfBounds_frameBytes_iff.1 hlen)).eq

/-- The payload starts at index 10 of the frame, index 5 of its body. -/
theorem replyPayload_of_positive : replyPayload (decodeReply s) = (body.drop 5).take (len.toNat - 6) := by
  have hrxLen : s.rxLen.toNat = 5 + body.length := by
    rw [← rxReply_length, hreply]
    exact frameBytes_length ..
  have hrplen : (BitVec.ofNat 11 (len.toNat - 6)).toNat = len.toNat - 6 :=
    (BitVec.toNat_ofNat ..).trans (Nat.mod_eq_of_lt (by omega))
  have hview : (decodeReply s).rpoff.toNat = 10 ∧ (decodeReply s).rplen.toNat = len.toNat - 6 ∧
      (decodeReply s).rxLen.toNat = 5 + body.length ∧ rxReply (decodeReply s) = encode (.rspPos stx a len body) := by
    rw [decodeReply_of_positive hreply hfit hmin hmax]
    exact ⟨rfl, hrplen, hrxLen, hreply⟩
  obtain ⟨hoff, hplen, hlen, hframe⟩ := hview
  rw [replyPayload_eq (by omega), hoff, hplen, hframe]
  rfl

end

/-- Settles O44: the exchange of the encoded frame ends in Done (O30), and its reply is then decoded (O42). -/
theorem transactReturnsThePositiveReply : Obligations.TransactReturnsThePositiveReply := by
  intro s w r stx a len body hi hsize hw hack hfit hmin hmax hok
  have hfits : 9 + s.plen.toNat ≤ Config.maxFrame := by unfold Config.maxFrame; omega
  have hsize₁ : (encode (.rspPos stx a len body)).length ≤ 1024 := (frameBytes_length ..).trans_le hfit
  have hw₁ : (encodeRequest s).wAns = .ok (encodeRequest s).txLen.toNat :: .ok 1 :: w := by
    rw [encodeRequest_txLen hfits, encodeRequest_frame]
    exact hw
  have hack₁ : gather (encodeRequest s).rAns = (.endOfStream, ACK :: encode (.rspPos stx a len body), r) := by
    rw [encodeRequest_frame]
    exact hack
  obtain ⟨u, hu, hx, herr, -, hreply, hidle, hwrites, -, -⟩ :=
    coalescedReplyReachesDone (encodeRequest s) w r (encode (.rspPos stx a len body)) (encodeRequest_isIdle hi)
      (encodeRequest_txLen_ne_zero hfits) hw₁ hack₁ nofun hsize₁ (.inl hok)
  rw [txFrame_encodeRequest hfits, (encodeRequest_standing s).trace] at hwrites
  have hstanding : SameStanding u (decodeReply u) := decodeResponse_standing (rxReply u) u
  refine ⟨decodeReply u, exec_transact_of_done hi hfits hu hidle herr, hstanding.xstate.trans hx, ?err, ?rkind,
    ?rst0, ?rst1, ?rst2, replyPayload_of_positive hreply hfit hmin hmax, hstanding.isIdle.trans hidle,
    (congrArg writesOf hstanding.trace).trans hwrites⟩
  all_goals rw [decodeReply_of_positive hreply hfit hmin hmax]

end Sys2Proof.Machine
end

section
/-! Failure entry (60_exceptions.md R210) and waiting (60_exceptions.md R220, 93_implementation_defined.md U10). -/

namespace Sys2Proof.Machine

/-! ### Failure entry -/

theorem raise_writes (f : Err) (info : Byte) (s : State) : raise f info s = { s with err := f, errInfo := info } := rfl

theorem setX_writes (x : XState) (s : State) : setX x s = { s with xstate := x, trace := .enter x :: s.trace } := rfl

theorem endOp_writes (s : State) : endOp s = { s with call := .none_, op := .none_ } := rfl

/-- The failure is raised, the exit state entered, the operation ended (42_exchange.md R171). -/
theorem failExchange_writes (f : Err) (info : Byte) (x : XState) (s : State) :
    failExchange f info x s =
      { s with err := f, errInfo := info, xstate := x, call := .none_, op := .none_, trace := .enter x :: s.trace } := by
  rw [failExchange, raise_writes, setX_writes, endOp_writes]

/-- Settles O46: what each of the two writes. -/
theorem failureEntryWritesOnlyTheFailureRegisters : Obligations.FailureEntryWritesOnlyTheFailureRegisters :=
  fun f info x s => ⟨raise_writes f info s, failExchange_writes f info x s⟩

/-! ### Waiting -/

/-- Where no answer stands ready, none is ready for the call in progress, whichever it is. -/
theorem waits_of_no_answers {s : State} (hw : s.wAns = []) (hr : s.rAns = []) : Waits s := ⟨fun _ => hw, fun _ => hr⟩

/-- Settles O60: without an event the step goes on with the call in progress, and without an answer that waits. -/
theorem waitingKeepsAllState : Obligations.WaitingKeepsAllState := by
  intro s hin hw hr
  rw [step_of_no_event hin, resume_of_waits (waits_of_no_answers hw hr)]

end Sys2Proof.Machine
end

section
/-! Reset, and the operations right after it (70_reset_and_hazards.md R230 to R232). -/

namespace Sys2Proof.Machine

/-! ### The reset event -/

/-- A step that serves a reset, whatever runs (70_reset_and_hazards.md R232). -/
theorem step_reset {es : List Event} {s : State} (h : s.inbox = .reset :: es) :
    step s = .next (resetBlock (leaveInbox es s)) := by
  simp [step, nextStep, h, serve]

/-- Settles O57: outside the buffers, the transport and the host, what the event leaves is the reset table itself. -/
theorem resetPutsTheResetTable : Obligations.ResetPutsTheResetTable := by
  intro s es h
  refine ⟨resetBlock (leaveInbox es s), step_reset h, ?_⟩
  and_intros <;> rfl

/-! ### The operations right after reset -/

theorem reset_isIdle : State.reset.isIdle = true := rfl

/-- PLEN is 0 after reset, so no byte of P is read. -/
theorem payload_reset : payload State.reset = [] := rfl

/-- The checksum of no bytes is 0, the value the checksum registers have after reset (40_checksum.md R110). -/
theorem computeBcc_reset : computeBcc State.reset = State.reset := by
  rw [computeBcc, payload_reset, bcc_nil]
  rfl

/-- BCCIN is 0 after reset too, so the verdict is positive. -/
theorem verifyBcc_reset : verifyBcc State.reset = { State.reset with bccOk := true } := by
  rw [verifyBcc, payload_reset, verifies, bcc_nil]
  rfl

/-- A request without a payload fits. -/
theorem reset_request_fits : 9 + State.reset.plen.toNat ≤ Config.maxFrame := by decide

theorem encodeRequest_reset_err : (encodeRequest State.reset).err = .none_ :=
  (encodeRequest_err _).trans (if_neg (Nat.not_lt.2 reset_request_fits))

theorem encodeRequest_reset_txLen : (encodeRequest State.reset).txLen = 9#11 :=
  BitVec.eq_of_toNat_eq (encodeRequest_txLen reset_request_fits)

/-- An empty reply is too short to read (41_frame_codec.md R132). -/
theorem decodes_reset :
    Decodes (rxReply State.reset) State.reset { State.reset with err := .truncatedFrame } :=
  .tooShort (by rw [rxReply_length]; decide)

/-- Settles O58: each operation at the operands and length registers of the reset table, which are 0. -/
theorem operationsRightAfterReset : Obligations.OperationsRightAfterReset := by
  refine ⟨?compute, ?verify, ⟨encodeRequest State.reset, ?encode, encodeRequest_reset_err, encodeRequest_reset_txLen⟩,
    ?decode, ?exchange⟩
  case compute => rw [exec_bccCompute_of_isIdle reset_isIdle, computeBcc_reset]
  case verify => rw [exec_bccVerify_of_isIdle reset_isIdle, verifyBcc_reset]
  case encode => exact exec_encReq_of_isIdle reset_isIdle
  case decode => exact (exec_decRsp_iff reset_isIdle).2 decodes_reset
  case exchange => exact exec_xchg_of_no_frame rfl

end Sys2Proof.Machine
end
